-- ==== Sys2Proof/Word.lean ====
section
/-! DEFINITION. The word types of the engine: a byte and a byte string (00_scope R10). The engine has no wider data word; its
16-bit and 64-bit registers are `BitVec 16` and `BitVec 64` where they stand. -/
namespace Sys2Proof

/-- A byte, an 8-bit unsigned value (R10). -/
abbrev Byte := BitVec 8

/-- A byte string; index 0 is the first byte on the wire (R10). The empty string `ε` is `[]`, `s ∥ t` is `s ++ t`. -/
abbrev Bytes := List Byte

end Sys2Proof
end

