-- ==== Sys2Proof/Config.lean ====
section
/-! DEFINITION. What one engine instance is configured with (00_scope R8), the enumerations its registers range over, and the
uninterpreted functions: the external crypto primitives (R13) and the values the spec leaves open. An `opaque` constant has no
body, so no proof can see a value of it. -/
namespace Sys2Proof

/-- One of the two directions (R7): index 0 is client→server, index 1 is server→client. -/
inductive Dir where
  | clientToServer
  | serverToClient
  deriving DecidableEq, Repr, Inhabited

/-- `HandshakeState` (R27), in its order. `sawHello` is `SawClientHello` in direction 0 and `SawServerHello` in direction 1. -/
inductive HandshakeState where
  | start
  | sawHello
  | changeCipherSpecSeen
  | finished
  deriving DecidableEq, Repr, Inhabited

/-- Bulk cipher family (R30). -/
inductive Family where
  | stream
  | block
  deriving DecidableEq, Repr, Inhabited

/-- A cipher identifier, what `BLOCK_DEC` and `STREAM_INIT` are told (R30); `other` stands for a cipher that only a table given
at CREATE names. -/
inductive Cipher where
  | null
  | rc4
  | des
  | tripleDesEde
  | aes
  | other (code : Nat)
  deriving DecidableEq, Repr, Inhabited

/-- MAC hash (R30). -/
inductive MacAlg where
  | md5
  | sha1
  deriving DecidableEq, Repr, Inhabited

/-- `CipherSuiteParams` (R30). `macAlg` is `none` for the table's one "(none)" row (R90, suite 0x0000). -/
structure CipherSuiteParams where
  family : Family
  cipher : Cipher
  keyLen : Nat
  ivLen : Nat
  blockLen : Nat
  macAlg : Option MacAlg
  macLen : Nat
  keyExchangeIsRsa : Bool
  deriving DecidableEq, Repr, Inhabited

/-- The state of a stream cipher (R26 `stream_state`): which cipher it belongs to, and its content, which only `STREAM_APPLY`
reads (93_implementation_defined), coded as a number. -/
structure StreamState where
  cipher : Cipher
  code : Nat
  deriving DecidableEq, Repr, Inhabited

/-- `SSL3_KEY_EXPANSION_SEED` (R8). -/
inductive SeedMode where
  | standard
  | literal
  deriving DecidableEq, Repr, Inhabited

/-- `SSL3_MAC_MODE` (R8). -/
inductive MacMode where
  | ssl3Mac
  | hmac
  deriving DecidableEq, Repr, Inhabited

/-- `SSL3_PADDING_CHECK` (R8). -/
inductive PaddingCheck where
  | strict
  | lengthOnly
  deriving DecidableEq, Repr, Inhabited

/-- The parameters of R8, fixed at CREATE for the life of the engine. `suiteTable` is `CIPHER_SUITE_TABLE`; `rsaKey` names the
server key that `RSA_DECRYPT` is closed over, as the library that holds it knows it (R13, R271); `initialCapacity` is read by no
rule. -/
structure Params where
  suiteTable : List (BitVec 16 × CipherSuiteParams)
  seedMode : SeedMode
  macMode : MacMode
  paddingCheck : PaddingCheck
  initialCapacity : Nat
  rsaKey : Nat
  deriving DecidableEq, Repr, Inhabited

namespace Config

/-- `RSA_DECRYPT` (R13) closed over the key that the first argument names; `none` is `Fail`. -/
opaque rsaDecrypt : Nat → Bytes → Option Bytes

/-- `MD5` (R13). -/
opaque md5 : Bytes → Vector Byte 16

/-- `SHA1` (R13). -/
opaque sha1 : Bytes → Vector Byte 20

/-- `HMAC_MD5` (R13): key, message. -/
opaque hmacMd5 : Bytes → Bytes → Vector Byte 16

/-- `HMAC_SHA1` (R13): key, message. -/
opaque hmacSha1 : Bytes → Bytes → Vector Byte 20

/-- `BLOCK_DEC` (R13): cipher, key, one block; the result is one block of the same size. -/
opaque blockDec : Cipher → Bytes → (n : Nat) → Vector Byte n → Vector Byte n

/-- The content part of `STREAM_INIT` (R13): cipher, key. -/
opaque streamInit : Cipher → Bytes → Nat

/-- The content part and the output of `STREAM_APPLY` (R13): cipher, content, input; the output is as long as the input. -/
opaque streamApply : Cipher → Nat → (n : Nat) → Vector Byte n → Nat × Vector Byte n

/-- FREE VALUE: what a rule that reads `conn.params` finds while it is `None`. R152 and R204 say no run of the engine reads it
then (log entry 6). -/
opaque unsetSuite : CipherSuiteParams

/-- FREE VALUE: what R233 finds in `stream_state` while it is `None`. R152 says no run of the engine reads it then (log entry 6). -/
opaque unsetStreamState : StreamState

/-- FREE VALUE: `SSL3Expand` past its bound, `n > 416` (R214 defines it for `n ≤ 416` only; log entry 7). -/
opaque ssl3ExpandBeyond : Bytes → Bytes → (n : Nat) → Vector Byte n

/-- FREE VALUE: the record MAC of a suite whose `mac_alg` is "(none)" (R90, D36: never reached with the default table; log
entry 8): key, MAC input. -/
opaque macWithoutAlg : Bytes → Bytes → Bytes

/-- FREE VALUE: the 4-byte length prefix of a byte string of `2^32` bytes or more, where `enc_be(4, v)` is not defined (R10, R95,
R96; log entry 9). -/
opaque longLength : Nat → Vector Byte 4

/-- FREE VALUE: how STATUS writes a stream cursor, an unbounded natural number for which R96 gives no layout (log entry 10). -/
opaque cursorBytes : Nat → Bytes

end Config

end Sys2Proof
end

