-- ==== Sys2Proof/Syntax.lean ====
section
/-! DEFINITION. The instructions of the engine: one constructor for each row of the opcode table, in the table's order. A record
is read in a direction; a handshake message too; an extension and a server_name entry stand in a ClientHello, so in direction 0.
The fields of a constructor are the row's operand fields (30_encoding R70, R74, R77, R78, R93). -/
namespace Sys2Proof

inductive Instr where
  /-- `CCS`, content type 20 (R145): direction, version bytes, payload. -/
  | ccs (d : Dir) (vmaj vmin : Byte) (payload : Bytes)
  /-- `ALERT.plain`, content type 21 before the direction's ChangeCipherSpec (R147). -/
  | alertPlain (d : Dir) (vmaj vmin : Byte) (payload : Bytes)
  /-- `ALERT.protected`, content type 21 after it (R148). -/
  | alertProtected (d : Dir) (vmaj vmin : Byte) (payload : Bytes)
  /-- `HANDSHAKE.plain`, content type 22 before the direction's ChangeCipherSpec (R135). -/
  | handshakePlain (d : Dir) (vmaj vmin : Byte) (payload : Bytes)
  /-- `HANDSHAKE.protected`, content type 22 after it (R136). -/
  | handshakeProtected (d : Dir) (vmaj vmin : Byte) (payload : Bytes)
  /-- `APPDATA`, content type 23 (R149, R150). -/
  | appData (d : Dir) (vmaj vmin : Byte) (payload : Bytes)
  /-- `RECORD.illegal`, any other content type (R132); the type byte is the second operand. -/
  | recordIllegal (d : Dir) (type vmaj vmin : Byte) (payload : Bytes)
  /-- `HS.HelloRequest`, handshake type 0 (R176). -/
  | hsHelloRequest (d : Dir) (body : Bytes)
  /-- `HS.ClientHello`, handshake type 1 (R170). -/
  | hsClientHello (d : Dir) (body : Bytes)
  /-- `HS.ServerHello`, handshake type 2 (R172). -/
  | hsServerHello (d : Dir) (body : Bytes)
  /-- `HS.NewSessionTicket`, handshake type 4 (R175). -/
  | hsNewSessionTicket (d : Dir) (body : Bytes)
  /-- `HS.Certificate`, handshake type 11 (R177). -/
  | hsCertificate (d : Dir) (body : Bytes)
  /-- `HS.ServerKeyExchange`, handshake type 12 (R178). -/
  | hsServerKeyExchange (d : Dir) (body : Bytes)
  /-- `HS.CertificateRequest`, handshake type 13 (R179). -/
  | hsCertificateRequest (d : Dir) (body : Bytes)
  /-- `HS.ServerHelloDone`, handshake type 14 (R180). -/
  | hsServerHelloDone (d : Dir) (body : Bytes)
  /-- `HS.CertificateVerify`, handshake type 15 (R181). -/
  | hsCertificateVerify (d : Dir) (body : Bytes)
  /-- `HS.ClientKeyExchange`, handshake type 16 (R174). -/
  | hsClientKeyExchange (d : Dir) (body : Bytes)
  /-- `HS.Finished`, handshake type 20, in plaintext (R182). -/
  | hsFinished (d : Dir) (body : Bytes)
  /-- `HS.unknown`, any other handshake type (R168). -/
  | hsUnknown (d : Dir) (type : Byte) (body : Bytes)
  /-- `EXT.server_name`, extension type 0 (R183). -/
  | extServerName (data : Bytes)
  /-- `EXT.session_ticket`, extension type 35 (R184). -/
  | extSessionTicket (data : Bytes)
  /-- `EXT.other`, any other extension type (R185). -/
  | extOther (type : BitVec 16) (data : Bytes)
  /-- `SNI.host_name`, name type 0 (R183). -/
  | sniHostName (name : Bytes)
  /-- `SNI.other`, any other name type (R183). -/
  | sniOther (type : Byte) (name : Bytes)
  /-- `CREATE`, command 0x01 (R111). Its operands are not bytes (R93). -/
  | create (params : Params)
  /-- `FEED`, command 0x02 (R112): the direction byte as the host gives it (above 1 it is refused, R119), the data bytes. -/
  | feed (d : Byte) (data : Bytes)
  /-- `STATUS`, command 0x03 (R116). -/
  | status
  /-- `FINISH`, command 0x04 (R118). -/
  | finish
  /-- `CMD.illegal`, any other command opcode (R119). -/
  | cmdIllegal (opcode : Byte)
  deriving DecidableEq, Repr

end Sys2Proof
end

