-- ==== Sys2Proof/WellFormed.lean ====
section
/-! DEFINITION. Which instructions an encoding can hold: every length field wide enough for its operand (R70, R74, R77, R78,
R93), an "any other" constructor only for a code that no other constructor has (R71, R75, R77, R78, R93), and CREATE's parameters
of the shape R30 gives them. -/
namespace Sys2Proof

/-- R30: for `Block`, `block_len` equals `iv_len`; for `Stream` both are 0. `mac_len` is 16 for MD5 and 20 for SHA1; a suite with
no MAC algorithm is one that is never accepted (R90, D36). -/
def CipherSuiteParams.wellFormed (p : CipherSuiteParams) : Bool :=
  (match p.family with
    | .stream => p.ivLen == 0 && p.blockLen == 0
    | .block => 0 < p.blockLen && p.blockLen == p.ivLen) &&
  (match p.macAlg with
    | some .md5 => p.macLen == 16
    | some .sha1 => p.macLen == 20
    | none => p.macLen == 0 && !p.keyExchangeIsRsa)

/-- `CIPHER_SUITE_TABLE` is a partial map (R8), so each suite id stands once, and each row is of R30's shape. -/
def Params.wellFormed (p : Params) : Bool :=
  decide (p.suiteTable.map (·.1)).Nodup && p.suiteTable.all (·.2.wellFormed)

/-- The handshake types that have a constructor of their own (R75). -/
def listedHandshakeTypes : List Byte := [0, 1, 2, 4, 11, 12, 13, 14, 15, 16, 20]

/-- An instruction that an encoding can hold. -/
def Instr.wellFormed : Instr → Bool
  | .ccs _ _ _ p | .alertPlain _ _ _ p | .alertProtected _ _ _ p | .handshakePlain _ _ _ p
  | .handshakeProtected _ _ _ p | .appData _ _ _ p => p.length < 65536
  | .recordIllegal _ t _ _ p => !([0x14, 0x15, 0x16, 0x17].contains t) && p.length < 65536
  | .hsHelloRequest _ b | .hsClientHello _ b | .hsServerHello _ b | .hsNewSessionTicket _ b | .hsCertificate _ b
  | .hsServerKeyExchange _ b | .hsCertificateRequest _ b | .hsServerHelloDone _ b | .hsCertificateVerify _ b
  | .hsClientKeyExchange _ b | .hsFinished _ b => b.length < 16777216
  | .hsUnknown _ t b => !(listedHandshakeTypes.contains t) && b.length < 16777216
  | .extServerName x | .extSessionTicket x => x.length < 65536
  | .extOther t x => t != 0 && t != 35 && x.length < 65536
  | .sniHostName n => n.length < 65536
  | .sniOther t n => t != 0 && n.length < 65536
  | .create p => p.wellFormed
  | .feed _ x => x.length < 4294967296
  | .status | .finish => true
  | .cmdIllegal op => !([1, 2, 3, 4].contains op)

end Sys2Proof
end

