-- ==== Sys2Proof/Machine/SuiteTable.lean ====
section
/-! DEFINITION. The informative default of `CIPHER_SUITE_TABLE` (30_encoding R90) and the default parameters of R8. -/
namespace Sys2Proof.Machine

/-- A row of R90 of family `Stream`: `iv_len = block_len = 0`. -/
def streamRow (id : BitVec 16) (c : Cipher) (keyLen : Nat) (alg : Option MacAlg) (macLen : Nat) (rsa : Bool) :
    BitVec 16 × CipherSuiteParams :=
  (id, { family := .stream, cipher := c, keyLen := keyLen, ivLen := 0, blockLen := 0, macAlg := alg, macLen := macLen,
         keyExchangeIsRsa := rsa })

/-- A row of R90 of family `Block`; every one has SHA-1. -/
def blockRow (id : BitVec 16) (c : Cipher) (keyLen blockLen : Nat) (rsa : Bool) : BitVec 16 × CipherSuiteParams :=
  (id, { family := .block, cipher := c, keyLen := keyLen, ivLen := blockLen, blockLen := blockLen, macAlg := some .sha1,
         macLen := 20, keyExchangeIsRsa := rsa })

/-- The 14 rows of R90. -/
def defaultSuiteTable : List (BitVec 16 × CipherSuiteParams) :=
  [ streamRow 0x0000 .null 0 none 0 false,
    streamRow 0x0001 .null 0 (some .md5) 16 true,
    streamRow 0x0002 .null 0 (some .sha1) 20 true,
    streamRow 0x0004 .rc4 16 (some .md5) 16 true,
    streamRow 0x0005 .rc4 16 (some .sha1) 20 true,
    blockRow 0x0009 .des 8 8 true,
    blockRow 0x000A .tripleDesEde 24 8 true,
    blockRow 0x0016 .tripleDesEde 24 8 false,
    blockRow 0x002F .aes 16 16 true,
    blockRow 0x0033 .aes 16 16 false,
    blockRow 0x0035 .aes 32 16 true,
    blockRow 0x0039 .aes 32 16 false,
    blockRow 0xC013 .aes 16 16 false,
    blockRow 0xC014 .aes 32 16 false ]

/-- The default parameters (R8): the table of R90, the three SSLv3 modes at their defaults. The capacity and the name of the key
are the model's (log entry 3). -/
def defaultParams : Params :=
  { suiteTable := defaultSuiteTable, seedMode := .standard, macMode := .ssl3Mac, paddingCheck := .strict,
    initialCapacity := 0, rsaKey := 0 }

end Sys2Proof.Machine
end

