-- ==== Sys2Proof/Decode.lean ====
section
/-! DEFINITION. Reading an instruction from bytes and writing it back (30_encoding). The engine has five formats and each says
where its bytes are read: a record at a stream's cursor, a handshake message in a record's payload, an extension in a ClientHello,
an entry in a server_name list, a command at the host port. A byte string has a meaning only in a format, so the decoder is told
the format: `Context`. Byte order and the handshake-state order stand here too, because decoding needs them. -/
namespace Sys2Proof

/-- The big-endian value of a byte string; `be16` and `be24` of R10 are this on two and three bytes (R54). -/
def beNat (bs : Bytes) : Nat :=
  bs.foldl (fun acc b => acc * 256 + b.toNat) 0

/-- `enc_be(n, v)` (R10): the `n`-byte big-endian encoding of `v`, for `v < 2^(8n)`. DESIGN CHOICE: of a larger `v`, which R10
leaves open, the low `n` bytes (log entry 26). -/
def encBe : Nat → Nat → Bytes
  | 0, _ => []
  | n + 1, v => BitVec.ofNat 8 (v / 256 ^ n) :: encBe n v

/-- `s[k]` (R10), for `k < |s|`. DESIGN CHOICE: past the end, which R10 leaves open, 0 (log entry 26). -/
def byteAt (bs : Bytes) (k : Nat) : Byte :=
  bs.getD k 0

/-- The numbers of R27. -/
def HandshakeState.rank : HandshakeState → Nat
  | .start => 0
  | .sawHello => 1
  | .changeCipherSpecSeen => 2
  | .finished => 3

/-- `hs_state ≥ ChangeCipherSpecSeen` (R27, R134). -/
def HandshakeState.reachedCcs (h : HandshakeState) : Bool :=
  HandshakeState.changeCipherSpecSeen.rank ≤ h.rank

/-- The index of a direction (R7). -/
def Dir.index : Dir → Nat
  | .clientToServer => 0
  | .serverToClient => 1

/-- `other(d)` (R11). -/
def Dir.other : Dir → Dir
  | .clientToServer => .serverToClient
  | .serverToClient => .clientToServer

/-- Why bytes are no instruction. -/
inductive DecodeError where
  /-- a record that is not fully buffered (R130: NeedMoreData) -/
  | needMoreData
  /-- fewer bytes than the header of a message, extension or list entry (R163, R171, R183) -/
  | truncatedHeader
  /-- a length field that exceeds the bytes after it (R162, R171, R183) -/
  | lengthOverrun
  /-- no opcode byte at the host port -/
  | emptyCommand
  /-- a FEED whose operands are not all there (R93) -/
  | truncatedCommand
  deriving DecidableEq, Repr

/-- Where bytes are read, with what the reading depends on beside the bytes: the direction; the direction's handshake state, which
tells a plain record from a protected one (R134); CREATE's operands, which are not bytes (R93). -/
inductive Context where
  | command (params : Params)
  | record (d : Dir) (hs : HandshakeState)
  | message (d : Dir)
  | extension
  | sniEntry
  deriving DecidableEq, Repr

/-- A header of `hdr` bytes whose last bytes, from offset `off` on, are the big-endian length of what follows it: the one framing
of records, messages, extensions, list entries and FEED data (R70, R74, R77, R78, R92, R93). The result is the header, the body and
the bytes after it. -/
def splitFrame (hdr off : Nat) (bs : Bytes) : Except DecodeError (Bytes × Bytes × Bytes) :=
  if bs.length < hdr then .error .truncatedHeader
  else if bs.length - hdr < beNat ((bs.take hdr).drop off) then .error .lengthOverrun
  else .ok (bs.take hdr, (bs.drop hdr).take (beNat ((bs.take hdr).drop off)),
    (bs.drop hdr).drop (beNat ((bs.take hdr).drop off)))

/-- The content-type opcode map (R71), the handshake state choosing between the plain and the protected row (R134). -/
def recordInstr (d : Dir) (hs : HandshakeState) (t vmaj vmin : Byte) (payload : Bytes) : Instr :=
  match t.toNat with
  | 20 => .ccs d vmaj vmin payload
  | 21 => if hs.reachedCcs then .alertProtected d vmaj vmin payload else .alertPlain d vmaj vmin payload
  | 22 => if hs.reachedCcs then .handshakeProtected d vmaj vmin payload else .handshakePlain d vmaj vmin payload
  | 23 => .appData d vmaj vmin payload
  | _ => .recordIllegal d t vmaj vmin payload

/-- The handshake-type opcode map (R75). -/
def messageInstr (d : Dir) (t : Byte) (body : Bytes) : Instr :=
  match t.toNat with
  | 0 => .hsHelloRequest d body
  | 1 => .hsClientHello d body
  | 2 => .hsServerHello d body
  | 4 => .hsNewSessionTicket d body
  | 11 => .hsCertificate d body
  | 12 => .hsServerKeyExchange d body
  | 13 => .hsCertificateRequest d body
  | 14 => .hsServerHelloDone d body
  | 15 => .hsCertificateVerify d body
  | 16 => .hsClientKeyExchange d body
  | 20 => .hsFinished d body
  | _ => .hsUnknown d t body

/-- The extension-type opcode map (R77). -/
def extensionInstr (t : Nat) (data : Bytes) : Instr :=
  match t with
  | 0 => .extServerName data
  | 35 => .extSessionTicket data
  | _ => .extOther (BitVec.ofNat 16 t) data

/-- The name-type opcode map (R78). -/
def sniInstr (t : Byte) (name : Bytes) : Instr :=
  match t.toNat with
  | 0 => .sniHostName name
  | _ => .sniOther t name

/-- A record at the head of `bs` (R70). -/
def decodeRecord (d : Dir) (hs : HandshakeState) (bs : Bytes) : Except DecodeError (Instr × Bytes) :=
  match splitFrame 5 3 bs with
  | .error _ => .error .needMoreData
  | .ok (h, payload, rest) => .ok (recordInstr d hs (byteAt h 0) (byteAt h 1) (byteAt h 2) payload, rest)

/-- A handshake message at the head of `bs` (R74). -/
def decodeMessage (d : Dir) (bs : Bytes) : Except DecodeError (Instr × Bytes) :=
  match splitFrame 4 1 bs with
  | .error e => .error e
  | .ok (h, body, rest) => .ok (messageInstr d (byteAt h 0) body, rest)

/-- An extension at the head of `bs` (R77). -/
def decodeExtension (bs : Bytes) : Except DecodeError (Instr × Bytes) :=
  match splitFrame 4 2 bs with
  | .error e => .error e
  | .ok (h, data, rest) => .ok (extensionInstr (beNat (h.take 2)) data, rest)

/-- An entry of a server_name list at the head of `bs` (R78). -/
def decodeSniEntry (bs : Bytes) : Except DecodeError (Instr × Bytes) :=
  match splitFrame 3 1 bs with
  | .error e => .error e
  | .ok (h, name, rest) => .ok (sniInstr (byteAt h 0) name, rest)

/-- The operands of FEED (R93): `d`, a 4-byte length, the data. -/
def decodeFeed (bs : Bytes) : Except DecodeError (Instr × Bytes) :=
  match bs with
  | [] => .error .truncatedCommand
  | d :: rest =>
    match splitFrame 4 0 rest with
    | .error _ => .error .truncatedCommand
    | .ok (_, data, rest') => .ok (.feed d data, rest')

/-- A command at the head of `bs` (R93); `p` is what the host passes beside the bytes for CREATE. -/
def decodeCommand (p : Params) (bs : Bytes) : Except DecodeError (Instr × Bytes) :=
  match bs with
  | [] => .error .emptyCommand
  | op :: rest =>
    match op.toNat with
    | 1 => .ok (.create p, rest)
    | 2 => decodeFeed rest
    | 3 => .ok (.status, rest)
    | 4 => .ok (.finish, rest)
    | _ => .ok (.cmdIllegal op, rest)

/-- The decoder: the instruction at the head of `bs` in the format `c`, and the bytes after it. -/
def decode (c : Context) (bs : Bytes) : Except DecodeError (Instr × Bytes) :=
  match c with
  | .command p => decodeCommand p bs
  | .record d hs => decodeRecord d hs bs
  | .message d => decodeMessage d bs
  | .extension => decodeExtension bs
  | .sniEntry => decodeSniEntry bs

/-! ### The encoder -/

/-- The bytes of a record (R70). -/
def encodeRecord (t vmaj vmin : Byte) (payload : Bytes) : Bytes :=
  t :: vmaj :: vmin :: (encBe 2 payload.length ++ payload)

/-- The bytes of a handshake message (R74). -/
def encodeMessage (t : Byte) (body : Bytes) : Bytes :=
  t :: (encBe 3 body.length ++ body)

/-- The bytes of an extension (R77). -/
def encodeExtension (t : Nat) (data : Bytes) : Bytes :=
  encBe 2 t ++ (encBe 2 data.length ++ data)

/-- The bytes of a server_name entry (R78). -/
def encodeSniEntry (t : Byte) (name : Bytes) : Bytes :=
  t :: (encBe 2 name.length ++ name)

/-- The bytes of an instruction in its format (R70, R74, R77, R78, R93). -/
def encode : Instr → Bytes
  | .ccs _ a b p => encodeRecord 0x14 a b p
  | .alertPlain _ a b p => encodeRecord 0x15 a b p
  | .alertProtected _ a b p => encodeRecord 0x15 a b p
  | .handshakePlain _ a b p => encodeRecord 0x16 a b p
  | .handshakeProtected _ a b p => encodeRecord 0x16 a b p
  | .appData _ a b p => encodeRecord 0x17 a b p
  | .recordIllegal _ t a b p => encodeRecord t a b p
  | .hsHelloRequest _ x => encodeMessage 0 x
  | .hsClientHello _ x => encodeMessage 1 x
  | .hsServerHello _ x => encodeMessage 2 x
  | .hsNewSessionTicket _ x => encodeMessage 4 x
  | .hsCertificate _ x => encodeMessage 11 x
  | .hsServerKeyExchange _ x => encodeMessage 12 x
  | .hsCertificateRequest _ x => encodeMessage 13 x
  | .hsServerHelloDone _ x => encodeMessage 14 x
  | .hsCertificateVerify _ x => encodeMessage 15 x
  | .hsClientKeyExchange _ x => encodeMessage 16 x
  | .hsFinished _ x => encodeMessage 20 x
  | .hsUnknown _ t x => encodeMessage t x
  | .extServerName x => encodeExtension 0 x
  | .extSessionTicket x => encodeExtension 35 x
  | .extOther t x => encodeExtension t.toNat x
  | .sniHostName n => encodeSniEntry 0 n
  | .sniOther t n => encodeSniEntry t n
  | .create _ => [0x01]
  | .feed d x => 0x02 :: d :: (encBe 4 x.length ++ x)
  | .status => [0x03]
  | .finish => [0x04]
  | .cmdIllegal op => [op]

/-- The contexts in which an instruction can be read: its format, its direction, a handshake state on its side of
ChangeCipherSpecSeen where its row has that condition (R134), its parameters. -/
def Context.admits (c : Context) (i : Instr) : Bool :=
  match i, c with
  | .ccs d _ _ _, .record d' _ => d == d'
  | .alertPlain d _ _ _, .record d' hs => d == d' && !hs.reachedCcs
  | .alertProtected d _ _ _, .record d' hs => d == d' && hs.reachedCcs
  | .handshakePlain d _ _ _, .record d' hs => d == d' && !hs.reachedCcs
  | .handshakeProtected d _ _ _, .record d' hs => d == d' && hs.reachedCcs
  | .appData d _ _ _, .record d' _ => d == d'
  | .recordIllegal d _ _ _ _, .record d' _ => d == d'
  | .hsHelloRequest d _, .message d' => d == d'
  | .hsClientHello d _, .message d' => d == d'
  | .hsServerHello d _, .message d' => d == d'
  | .hsNewSessionTicket d _, .message d' => d == d'
  | .hsCertificate d _, .message d' => d == d'
  | .hsServerKeyExchange d _, .message d' => d == d'
  | .hsCertificateRequest d _, .message d' => d == d'
  | .hsServerHelloDone d _, .message d' => d == d'
  | .hsCertificateVerify d _, .message d' => d == d'
  | .hsClientKeyExchange d _, .message d' => d == d'
  | .hsFinished d _, .message d' => d == d'
  | .hsUnknown d _ _, .message d' => d == d'
  | .extServerName _, .extension => true
  | .extSessionTicket _, .extension => true
  | .extOther _ _, .extension => true
  | .sniHostName _, .sniEntry => true
  | .sniOther _ _, .sniEntry => true
  | .create p, .command p' => p == p'
  | .feed _ _, .command _ => true
  | .status, .command _ => true
  | .finish, .command _ => true
  | .cmdIllegal _, .command _ => true
  | _, _ => false

/-! ### A word of the opcode table

The table's word does not say its format, and one byte value stands in up to four formats. `tableContext` chooses (log entry 15). -/

/-- The bytes of a table word: one word of `nbits` bits, most significant byte first (R54), then the zeros above it, up to the
longest header. -/
def tableBytes (nbits w : Nat) : Bytes :=
  encBe ((max nbits 1 + 7) / 8) w ++ List.replicate 8 0

/-- The format a table word is read in: 16 bits, an extension; 1 to 4, a host command; 0 and 11 to 16, a handshake message; any
other byte, a record before its direction's ChangeCipherSpec. -/
def tableContext (nbits w : Nat) : Context :=
  if 8 < nbits then .extension
  else if 1 ≤ w % 256 ∧ w % 256 ≤ 4 then .command Machine.defaultParams
  else if w % 256 = 0 ∨ (11 ≤ w % 256 ∧ w % 256 ≤ 16) then .message .clientToServer
  else .record .clientToServer .start

/-- The instruction the decoder reads from a word of the opcode table. -/
def decodeTableWord (nbits w : Nat) : Option Instr :=
  match decode (tableContext nbits w) (tableBytes nbits w) with
  | .ok (i, _) => some i
  | .error _ => none

end Sys2Proof
end

