-- ==== Sys2Proof/Machine/State.lean ====
section
/-! DEFINITION. The state of one engine instance (10_state), the events and responses it gives the host (30_encoding R94, R95), the
errors it can raise (60_exceptions R260, R263), and the state after reset (70_reset_and_hazards R290). State is plain data. The
engine has no addressed memory: its only memories are the two streams (R59). -/
namespace Sys2Proof.Machine

/-- The fatal error kinds (R260). -/
inductive ErrorKind where
  | protocolError
  | unsupportedCipherSuite
  | unsupportedVersion
  | decryptionError
  | badPadding
  | badMac
  deriving DecidableEq, Repr

/-- The fatal errors, one for each row of R263: a kind with a detail. -/
inductive FatalError where
  | unknownContentType
  | hsTruncatedHeader
  | hsLengthOverrun
  | chMalformed
  | shMalformed
  | ckeMalformed
  | nstMalformed
  | ccsWithoutKeys
  | appdataWithoutKeys
  | wrongDirection
  | duplicateMessage
  | seqExhausted
  | unknownSuite
  | nonRsaSuite
  | tls12Version
  | otherVersion
  | rsaFail
  | badPremasterLength
  | badCiphertextLength
  | padOverrun
  | padByteMismatch
  | recordTooShort
  | macMismatch
  deriving DecidableEq, Repr

/-- What a rule ends in (R11, R130): `Done`, the suspension NeedMoreData, or a raise. -/
inductive RuleResult where
  | done
  | wait
  | fatal (e : FatalError)
  deriving DecidableEq, Repr

/-- The output events (R95). -/
inductive Event where
  | hsMsg (d : Dir) (hsType : Byte) (body : Bytes)
  | ccs (d : Dir)
  | keysDerived (d : Dir)
  | plainAlert (d : Dir) (payload : Bytes)
  | decrypted (d : Dir) (type : Byte) (fragment : Bytes)
  | raw (d : Dir) (bytes : Bytes)
  | error (d : Dir) (kind detail : Byte)
  deriving DecidableEq, Repr

/-- The result codes of a command (R94). -/
inductive ResultCode where
  | ok
  | fatal
  | disabled
  | refused
  deriving DecidableEq, Repr

/-- The response of a command (R94): its result code, its events in emission order, and for STATUS the register dump (R116).
While a command is in progress `events` is its output event list (R34c). -/
structure Response where
  result : ResultCode
  events : List Event
  dump : Bytes
  deriving DecidableEq, Repr

/-- What `conn.params` holds: the parameters and the suite id they were looked up by, which STATUS exports (R96). -/
structure LoadedSuite where
  id : BitVec 16
  suite : CipherSuiteParams
  deriving DecidableEq, Repr

/-- A stream (R26, R31): the appended bytes and the read cursor. -/
structure Stream where
  buf : Bytes
  cursor : Nat
  deriving DecidableEq, Repr

/-- The key registers of a direction (R26). -/
structure KeyBank where
  macKey : Bytes
  encKey : Bytes
  iv : Bytes
  seq : BitVec 64
  streamState : Option StreamState
  deriving DecidableEq, Repr

/-- A per-direction bank (R26). -/
structure Peer where
  hsState : HandshakeState
  stream : Stream
  keys : KeyBank
  deriving DecidableEq, Repr

/-- The connection register file with its flags (R20, R22, R25). -/
structure Conn where
  version : BitVec 16
  cipherSuite : BitVec 16
  params : Option LoadedSuite
  compression : Byte
  clientRandom : Bytes
  serverRandom : Bytes
  clientSessionId : Bytes
  serverSessionId : Bytes
  clientTicket : Bytes
  serverTicket : Bytes
  sni : Bytes
  premasterSecret : Bytes
  masterSecret : Bytes
  errorKind : Byte
  errorDetail : Byte
  errorDir : Dir
  clientRandomSet : Bool
  serverRandomSet : Bool
  premasterSet : Bool
  keyScheduleDone : Bool
  disabled : Bool
  closed : Bool
  deriving DecidableEq, Repr

/-- The variables of a ClientHello in progress (R170, R171, R183): `sni'`, `ticket'`, and `found` of the server_name list. The
MODEL's own registers: the spec holds them in pseudocode variables (log entry 12). -/
structure Work where
  sni : Bytes
  ticket : Bytes
  found : Bool
  deriving DecidableEq, Repr

/-- Something put before the engine that no step has taken yet. A host puts commands there; the other four let one step run a
single record, message, extension or list entry by itself (log entry 5). -/
inductive Request where
  /-- a host command: its bytes, and CREATE's operands beside them (R93) -/
  | command (params : Params) (bytes : Bytes)
  /-- one StepDir of a direction (R130): the record at its cursor -/
  | record (d : Dir)
  /-- one handshake message (R74) -/
  | message (d : Dir) (bytes : Bytes)
  /-- one ClientHello extension (R77) -/
  | extension (bytes : Bytes)
  /-- one entry of a server_name list (R78) -/
  | sniEntry (bytes : Bytes)
  deriving DecidableEq, Repr

/-- The engine: the connection registers, the two direction banks, the parameters fixed at CREATE (R8, R33); and the model's own
fields: the ClientHello variables, the response of the last command, the requests not yet taken. -/
structure State where
  conn : Conn
  peer0 : Peer
  peer1 : Peer
  params : Params
  work : Work
  response : Response
  pending : List Request
  deriving DecidableEq, Repr

/-- Why the machine stops with a fault. -/
inductive Fault where
  /-- Raised by `consume` alone: `Consume(d, n)` with `n > Avail(d)`, which R52 calls a programming error and the spec's model
  treats as a fault of the model. Safe: no rule issues such a call (R32), so no meaning ends in it. -/
  | consumeBeyondAvail
  deriving DecidableEq, Repr

/-- Why a step has no meaning. -/
inductive Refusal where
  /-- Raised by `exec` for an instruction that has no meaning yet. No arm does. Safe. -/
  | notModelled (mnemonic : String)
  /-- Raised by `step` alone, for a request at the host port whose bytes are no command (no opcode byte, or a FEED whose operands
  are not all there): the spec gives such a transaction no move (R93, R119). Safe (log entry 14). -/
  | undecodable (e : DecodeError)
  deriving DecidableEq, Repr

/-- The key registers after reset (R290). -/
def resetKeys : KeyBank :=
  { macKey := [], encKey := [], iv := [], seq := 0, streamState := none }

/-- A direction bank after reset (R290). -/
def resetPeer : Peer :=
  { hsState := .start, stream := { buf := [], cursor := 0 }, keys := resetKeys }

/-- The connection registers after reset (R290). -/
def resetConn : Conn :=
  { version := 0, cipherSuite := 0, params := none, compression := 0,
    clientRandom := List.replicate 32 0, serverRandom := List.replicate 32 0,
    clientSessionId := [], serverSessionId := [], clientTicket := [], serverTicket := [], sni := [],
    premasterSecret := [], masterSecret := [], errorKind := 0, errorDetail := 0, errorDir := .clientToServer,
    clientRandomSet := false, serverRandomSet := false, premasterSet := false, keyScheduleDone := false,
    disabled := false, closed := false }

/-- A new engine with the parameters `p` (R111): every register at its reset value (R290), the response `(OK, [])`. -/
def State.fresh (p : Params) (pending : List Request) : State :=
  { conn := resetConn, peer0 := resetPeer, peer1 := resetPeer, params := p,
    work := { sni := [], ticket := [], found := false },
    response := { result := .ok, events := [], dump := [] }, pending := pending }

/-- The engine right after reset (R290), nothing put before it; its parameters are the defaults of R8 (log entry 3). -/
def State.reset : State :=
  State.fresh defaultParams []

end Sys2Proof.Machine
end

