-- ==== Sys2Proof/Machine/Flags.lean ====
section
/-! DEFINITION. The predicates and codes the rules compute: `ready` (R23), the handshake-state order (R27), the version class (R84),
the error, result and event codes (R94, R260, R263). -/
namespace Sys2Proof.Machine

/-- `ready` (R23). -/
def Conn.ready (c : Conn) : Bool :=
  c.clientRandomSet && c.serverRandomSet && c.premasterSet

/-- `max` of R145, in the order of R27. -/
def hsMax (a b : HandshakeState) : HandshakeState :=
  if a.rank < b.rank then b else a

/-- The version classes (R84). -/
inductive VersionClass where
  | sslv3
  | tls10
  | tls11
  | tls12
  | other
  deriving DecidableEq, Repr

/-- `Class(v)` (R84). -/
def versionClass (v : BitVec 16) : VersionClass :=
  if v = 0x0300 then .sslv3
  else if v = 0x0301 then .tls10
  else if v = 0x0302 then .tls11
  else if v = 0x0303 then .tls12
  else .other

/-- The classes whose CBC records chain their IV (R84, R211, R230): SSLv3 and TLS10. -/
def VersionClass.chainsIv (c : VersionClass) : Bool :=
  c = .sslv3 || c = .tls10

/-- The classes that use the TLS constructions (R205, R209, R239): TLS10 and TLS11. -/
def VersionClass.isTls (c : VersionClass) : Bool :=
  c = .tls10 || c = .tls11

/-- The codes of the error kinds (R260). -/
def ErrorKind.code : ErrorKind → Byte
  | .protocolError => 0x01
  | .unsupportedCipherSuite => 0x02
  | .unsupportedVersion => 0x03
  | .decryptionError => 0x04
  | .badPadding => 0x05
  | .badMac => 0x06

/-- The kind of a fatal error (R263). -/
def FatalError.kind : FatalError → ErrorKind
  | .unknownContentType | .hsTruncatedHeader | .hsLengthOverrun | .chMalformed | .shMalformed | .ckeMalformed
  | .nstMalformed | .ccsWithoutKeys | .appdataWithoutKeys | .wrongDirection | .duplicateMessage | .seqExhausted =>
    .protocolError
  | .unknownSuite | .nonRsaSuite => .unsupportedCipherSuite
  | .tls12Version | .otherVersion => .unsupportedVersion
  | .rsaFail | .badPremasterLength => .decryptionError
  | .badCiphertextLength | .padOverrun | .padByteMismatch => .badPadding
  | .recordTooShort | .macMismatch => .badMac

/-- The detail code of a fatal error (R263). -/
def FatalError.detail : FatalError → Byte
  | .unknownContentType => 0x01
  | .hsTruncatedHeader => 0x02
  | .hsLengthOverrun => 0x03
  | .chMalformed => 0x04
  | .shMalformed => 0x05
  | .ckeMalformed => 0x06
  | .nstMalformed => 0x07
  | .ccsWithoutKeys => 0x08
  | .appdataWithoutKeys => 0x09
  | .wrongDirection => 0x0A
  | .duplicateMessage => 0x0B
  | .seqExhausted => 0x0C
  | .unknownSuite => 0x01
  | .nonRsaSuite => 0x02
  | .tls12Version => 0x01
  | .otherVersion => 0x02
  | .rsaFail => 0x01
  | .badPremasterLength => 0x02
  | .badCiphertextLength => 0x01
  | .padOverrun => 0x02
  | .padByteMismatch => 0x03
  | .recordTooShort => 0x01
  | .macMismatch => 0x02

/-- The result codes (R94). -/
def ResultCode.code : ResultCode → Byte
  | .ok => 0x00
  | .fatal => 0x01
  | .disabled => 0x02
  | .refused => 0x03

/-- What an undecodable message, extension or list entry raises (R162, R163; R171, R183). -/
def messageError : DecodeError → FatalError
  | .lengthOverrun => .hsLengthOverrun
  | .truncatedHeader | .needMoreData | .emptyCommand | .truncatedCommand => .hsTruncatedHeader

end Sys2Proof.Machine
end

