-- ==== Sys2Proof/Machine/Operands.lean ====
section
/-! DEFINITION. Operand forms: `need(k)` over a message body (R12), the bodies of the four parsed messages (30_encoding R76, R80,
R81, R82), bytewise XOR (R10), and the crypto primitives of R13 as functions on byte strings. -/
namespace Sys2Proof.Machine

/-- `need(k)` (R12): the next `k` bytes and the rest, or nothing when fewer remain. -/
def need (k : Nat) (bs : Bytes) : Option (Bytes × Bytes) :=
  if k ≤ bs.length then some (bs.take k, bs.drop k) else none

/-- A vector told by a length prefix of `w` bytes (R92). -/
def needVector (w : Nat) (bs : Bytes) : Option (Bytes × Bytes) :=
  (need w bs).bind fun r => need (beNat r.1) r.2

/-- The fields of a ClientHello that are kept (R76), before the extensions are read; `ext` is the extensions block, if there is
one (R170, D12). -/
structure ClientHelloFields where
  random : Bytes
  sessionId : Bytes
  compressionMethods : Bytes
  ext : Option Bytes
  deriving DecidableEq, Repr

/-- The part of a ClientHello body after the compression list (R170): nothing, one byte (malformed), or an extensions block whose
trailing bytes are ignored. -/
def parseExtensionsBlock (bs : Bytes) : Option (Option Bytes) :=
  match bs with
  | [] => some none
  | [_] => none
  | _ :: _ :: _ => (needVector 2 bs).map fun r => some r.1

/-- The body of a ClientHello (R76, R170). -/
def parseClientHello (body : Bytes) : Option ClientHelloFields := do
  let (_, b) ← need 2 body
  let (random, b) ← need 32 b
  let (sid, b) ← needVector 1 b
  let (_, b) ← needVector 2 b
  let (methods, b) ← needVector 1 b
  let ext ← parseExtensionsBlock b
  return { random := random, sessionId := sid, compressionMethods := methods, ext := ext }

/-- The fields of a ServerHello (R80). -/
structure ServerHelloFields where
  version : BitVec 16
  random : Bytes
  sessionId : Bytes
  suite : BitVec 16
  compression : Byte
  deriving DecidableEq, Repr

/-- The body of a ServerHello (R80, R172); what follows the compression byte is ignored. -/
def parseServerHello (body : Bytes) : Option ServerHelloFields := do
  let (ver, b) ← need 2 body
  let (random, b) ← need 32 b
  let (sid, b) ← needVector 1 b
  let (cs, b) ← need 2 b
  let (cm, _) ← need 1 b
  return { version := BitVec.ofNat 16 (beNat ver), random := random, sessionId := sid,
           suite := BitVec.ofNat 16 (beNat cs), compression := byteAt cm 0 }

/-- The encrypted premaster of a ClientKeyExchange body (R81, R174); further bytes are ignored. -/
def parseClientKeyExchange (body : Bytes) : Option Bytes :=
  (needVector 2 body).map (·.1)

/-- The ticket of a NewSessionTicket body (R82, R175); further bytes are ignored. -/
def parseNewSessionTicket (body : Bytes) : Option Bytes := do
  let (_, b) ← need 4 body
  let (t, _) ← needVector 2 b
  return t

/-- `XOR` of two byte strings of equal length (R10). DESIGN CHOICE: of unequal lengths, which R10 leaves open, it ends with the
shorter one (log entry 26). -/
def xorBytes (a b : Bytes) : Bytes :=
  List.zipWith (· ^^^ ·) a b

/-- `repeat(b, n)` (R10). -/
def repeatByte (b : Byte) (n : Nat) : Bytes :=
  List.replicate n b

/-- A byte string as a vector of its own length. -/
def vecOf (bs : Bytes) : Vector Byte bs.length :=
  ⟨bs.toArray, by simp⟩

/-- `MD5` or `SHA1` (R13). -/
def hash (alg : MacAlg) (m : Bytes) : Bytes :=
  match alg with
  | .md5 => (Config.md5 m).toList
  | .sha1 => (Config.sha1 m).toList

/-- `HMAC_MD5` or `HMAC_SHA1` (R13). -/
def hmac (alg : MacAlg) (key m : Bytes) : Bytes :=
  match alg with
  | .md5 => (Config.hmacMd5 key m).toList
  | .sha1 => (Config.hmacSha1 key m).toList

/-- `BLOCK_DEC` (R13). -/
def blockDec (c : Cipher) (key block : Bytes) : Bytes :=
  (Config.blockDec c key block.length (vecOf block)).toList

/-- `STREAM_INIT` (R13). -/
def streamInit (c : Cipher) (key : Bytes) : StreamState :=
  { cipher := c, code := Config.streamInit c key }

/-- `STREAM_APPLY` (R13). The NULL cipher's is the identity and leaves its state (R87, R233). -/
def streamApply (st : StreamState) (bs : Bytes) : StreamState × Bytes :=
  match st.cipher with
  | .null => (st, bs)
  | .rc4 | .des | .tripleDesEde | .aes | .other _ =>
    ({ st with code := (Config.streamApply st.cipher st.code bs.length (vecOf bs)).1 },
      (Config.streamApply st.cipher st.code bs.length (vecOf bs)).2.toList)

end Sys2Proof.Machine
end

