-- ==== Sys2Proof/Machine/Ops.lean ====
section
/-! DEFINITION. The named operations over the state: the banks, the stream primitives (20_memory R50 to R53), `emit`, and the
engine's one exception: disabling the connection (60_exceptions R262, R264). There is no return from it (R266): the only way on is a
new engine (CREATE). -/
namespace Sys2Proof.Machine

/-! ### Banks -/

/-- `peer[d]` (R26). -/
def State.peer (s : State) (d : Dir) : Peer :=
  match d with
  | .clientToServer => s.peer0
  | .serverToClient => s.peer1

/-- A write of `peer[d]`. -/
def State.setPeer (s : State) (d : Dir) (p : Peer) : State :=
  match d with
  | .clientToServer => { s with peer0 := p }
  | .serverToClient => { s with peer1 := p }

/-- A write of `peer[d].hs_state`. -/
def State.setHs (s : State) (d : Dir) (h : HandshakeState) : State :=
  s.setPeer d { s.peer d with hsState := h }

/-- A write of the stream of `peer[d]`. -/
def State.setStream (s : State) (d : Dir) (x : Stream) : State :=
  s.setPeer d { s.peer d with stream := x }

/-- A write of the key bank of `peer[d]`. -/
def State.setKeys (s : State) (d : Dir) (k : KeyBank) : State :=
  s.setPeer d { s.peer d with keys := k }

/-- The suite parameters a rule finds in `conn.params` (R203, R230); while it is `None`, a free value (log entry 6). -/
def State.suite (s : State) : CipherSuiteParams :=
  match s.conn.params with
  | some l => l.suite
  | none => Config.unsetSuite

/-! ### Streams -/

/-- `Unconsumed(d)` (R31). -/
def State.unconsumed (s : State) (d : Dir) : Bytes :=
  (s.peer d).stream.buf.drop (s.peer d).stream.cursor

/-- `Avail(d)` (R50). -/
def State.avail (s : State) (d : Dir) : Nat :=
  (s.peer d).stream.buf.length - (s.peer d).stream.cursor

/-- `Peek(d, n)` (R51); `none` is NeedMoreData. -/
def State.peek (s : State) (d : Dir) (n : Nat) : Option Bytes :=
  if n ≤ s.avail d then some ((s.unconsumed d).take n) else none

/-- The cursor `n` bytes further. -/
def State.advance (s : State) (d : Dir) (n : Nat) : State :=
  s.setStream d { (s.peer d).stream with cursor := (s.peer d).stream.cursor + n }

/-- `Consume(d, n)` (R52), which requires `n ≤ Avail(d)`. -/
def State.consume (s : State) (d : Dir) (n : Nat) : Host.Outcome State Fault Refusal :=
  if n ≤ s.avail d then .next (s.advance d n) else .fault .consumeBeyondAvail

/-- `Append(d, bytes)` (R53). -/
def State.append (s : State) (d : Dir) (bs : Bytes) : State :=
  s.setStream d { (s.peer d).stream with buf := (s.peer d).stream.buf ++ bs }

/-! ### Output -/

/-- `emit E` (R11). -/
def State.emit (s : State) (e : Event) : State :=
  { s with response := { s.response with events := s.response.events ++ [e] } }

/-- A response with a result code and no event (R94). -/
def State.respond (s : State) (r : ResultCode) : State :=
  { s with response := { result := r, events := [], dump := [] } }

/-- The result code of the response, its events kept (R94). -/
def State.setResult (s : State) (r : ResultCode) : State :=
  { s with response := { s.response with result := r } }

/-- `if Avail(e) > 0: emit Raw(e, Peek(e, Avail(e))); Consume(e, Avail(e))` (R118, R131, R264). -/
def State.surface (s : State) (e : Dir) : State :=
  if 0 < s.avail e then (s.emit (.raw e (s.unconsumed e))).advance e (s.avail e) else s

/-! ### The exception: disabling the connection -/

/-- `FlushRaw(d)` (R264): direction `d`, then the other. -/
def State.flushRaw (s : State) (d : Dir) : State :=
  (s.surface d).surface d.other

/-- The register writes and the event of `Disable(d, K, detail)` (R262). -/
def State.raiseError (s : State) (d : Dir) (e : FatalError) : State :=
  State.emit
    { s with conn := { s.conn with disabled := true, errorKind := e.kind.code, errorDetail := e.detail, errorDir := d } }
    (.error d e.kind.code e.detail)

/-- `Disable(d, K, detail)` (R262): the entry of every fatal error. -/
def State.disable (s : State) (d : Dir) (e : FatalError) : State :=
  (s.raiseError d e).flushRaw d

end Sys2Proof.Machine
end

