-- ==== Sys2Proof/Machine/KeySchedule.lean ====
section
/-! DEFINITION. The key schedule coordinator (43_key_schedule): premaster recovery, the master secret, the key block, the key
banks. -/
namespace Sys2Proof.Machine

/-! ### Premaster recovery -/

/-- `PremasterRecover(enc)` (R200). -/
def premasterRecover (enc : Bytes) (s : State) : RuleResult × State :=
  match Config.rsaDecrypt s.params.rsaKey enc with
  | none => (.fatal .rsaFail, s)
  | some pm =>
    if pm.length = 48 then
      (.done, { s with conn := { s.conn with premasterSecret := pm, premasterSet := true } })
    else (.fatal .badPremasterLength, s)

/-! ### Expansion functions -/

/-- Round `i` of `SSL3Expand` (R214), `i` from 1: `letters(i) = repeat(0x40 + i, i)`. -/
def ssl3Round (secret seed : Bytes) (i : Nat) : Bytes :=
  hash .md5 (secret ++ hash .sha1 (repeatByte (BitVec.ofNat 8 (0x40 + i)) i ++ secret ++ seed))

/-- `SSL3Expand(secret, seed, n)` (R214), defined for `n ≤ 416`; past that, a free value (log entry 7). -/
def ssl3Expand (secret seed : Bytes) (n : Nat) : Bytes :=
  if n ≤ 416 then ((List.range ((n + 15) / 16)).flatMap fun i => ssl3Round secret seed (i + 1)).take n
  else (Config.ssl3ExpandBeyond secret seed n).toList

/-- The loop of `P_hash` (R213); every round adds at least one byte, so `n` rounds are enough fuel. -/
def pHashLoop (alg : MacAlg) (secret seed : Bytes) (n : Nat) : Nat → Bytes → Bytes → Bytes
  | 0, _, out => out
  | fuel + 1, a, out =>
    if out.length < n then
      pHashLoop alg secret seed n fuel (hmac alg secret a) (out ++ hmac alg secret (hmac alg secret a ++ seed))
    else out

/-- `P_hash(HMAC, secret, seed, n)` (R213). -/
def pHash (alg : MacAlg) (secret seed : Bytes) (n : Nat) : Bytes :=
  (pHashLoop alg secret seed n n seed []).take n

/-- `PRF(secret, label, seed, n)` (R207). -/
def prf (secret label seed : Bytes) (n : Nat) : Bytes :=
  xorBytes (pHash .md5 (secret.take ((secret.length + 1) / 2)) (label ++ seed) n)
    (pHash .sha1 (secret.drop (secret.length - (secret.length + 1) / 2)) (label ++ seed) n)

/-- The ASCII bytes of "master secret" (R207). -/
def masterSecretLabel : Bytes :=
  [0x6d, 0x61, 0x73, 0x74, 0x65, 0x72, 0x20, 0x73, 0x65, 0x63, 0x72, 0x65, 0x74]

/-- The ASCII bytes of "key expansion" (R209). -/
def keyExpansionLabel : Bytes :=
  [0x6b, 0x65, 0x79, 0x20, 0x65, 0x78, 0x70, 0x61, 0x6e, 0x73, 0x69, 0x6f, 0x6e]

/-! ### Master secret and key block -/

/-- `MasterSecret(cls)` (R205, R206, R207). `KeySchedule` calls it for SSLv3, TLS10 and TLS11 only (R203); for
TLS12 and OTHER the function is the model's own (log entry 25). -/
def masterSecret (cls : VersionClass) (c : Conn) : Bytes :=
  if cls = .sslv3 then ssl3Expand c.premasterSecret (c.clientRandom ++ c.serverRandom) 48
  else prf c.premasterSecret masterSecretLabel (c.clientRandom ++ c.serverRandom) 48

/-- `KeyBlock(cls, ms, n)` (R209); for TLS12 and OTHER, which never reach it, the model's own (log entry 25). -/
def keyBlock (cls : VersionClass) (mode : SeedMode) (c : Conn) (ms : Bytes) (n : Nat) : Bytes :=
  if cls = .sslv3 then
    match mode with
    | .standard => ssl3Expand ms (c.serverRandom ++ c.clientRandom) n
    | .literal => ssl3Expand ms (keyExpansionLabel ++ c.serverRandom ++ c.clientRandom) n
  else prf ms keyExpansionLabel (c.serverRandom ++ c.clientRandom) n

/-- `iv_kb` of LoadKeys (R208, R211). -/
def keyBlockIvLen (cls : VersionClass) (p : CipherSuiteParams) : Nat :=
  if p.family = .block ∧ cls.chainsIv then p.ivLen else 0

/-- The key-block length (R212). -/
def keyBlockLen (cls : VersionClass) (p : CipherSuiteParams) : Nat :=
  2 * p.macLen + 2 * p.keyLen + 2 * keyBlockIvLen cls p

/-- `kb[a : a + n]` (R10), for `a + n ≤ |kb|`. DESIGN CHOICE: past the end, which R10 leaves open, the bytes there are (log entry
26). -/
def slice (bs : Bytes) (a n : Nat) : Bytes :=
  (bs.drop a).take n

/-- The bank LoadKeys gives a direction (R208): `mac`, `key` and `iv` are the direction's parts of the key block. -/
def loadedBank (p : CipherSuiteParams) (mac key iv : Bytes) : KeyBank :=
  { macKey := mac, encKey := key, iv := iv, seq := 0,
    streamState := match p.family with
      | .stream => some (streamInit p.cipher key)
      | .block => none }

/-- The client-write bank of the key block `kb` (R208). -/
def clientBank (cls : VersionClass) (p : CipherSuiteParams) (kb : Bytes) : KeyBank :=
  loadedBank p (slice kb 0 p.macLen) (slice kb (2 * p.macLen) p.keyLen)
    (slice kb (2 * p.macLen + 2 * p.keyLen) (keyBlockIvLen cls p))

/-- The server-write bank of the key block `kb` (R208). -/
def serverBank (cls : VersionClass) (p : CipherSuiteParams) (kb : Bytes) : KeyBank :=
  loadedBank p (slice kb p.macLen p.macLen) (slice kb (2 * p.macLen + p.keyLen) p.keyLen)
    (slice kb (2 * p.macLen + 2 * p.keyLen + keyBlockIvLen cls p) (keyBlockIvLen cls p))

/-- `LoadKeys(cls, ms, p)` (R208): client-write material to `peer[0]`, server-write material to `peer[1]` (R29). -/
def loadKeys (cls : VersionClass) (ms : Bytes) (p : CipherSuiteParams) (s : State) : State :=
  (s.setKeys .clientToServer (clientBank cls p (keyBlock cls s.params.seedMode s.conn ms (keyBlockLen cls p)))).setKeys
    .serverToClient (serverBank cls p (keyBlock cls s.params.seedMode s.conn ms (keyBlockLen cls p)))

/-- The derivation itself (R203 after version gating): master secret, key banks, `KeysDerived(d)`. -/
def deriveKeys (cls : VersionClass) (d : Dir) (s : State) : State :=
  State.emit
    (loadKeys cls (masterSecret cls s.conn) s.suite
      { s with conn := { s.conn with masterSecret := masterSecret cls s.conn } })
    (.keysDerived d)

/-- `KeySchedule(d)` (R203, R210). -/
def keySchedule (d : Dir) (s : State) : RuleResult × State :=
  match versionClass s.conn.version with
  | .tls12 => (.fatal .tls12Version, s)
  | .other => (.fatal .otherVersion, s)
  | .sslv3 => (.done, deriveKeys .sslv3 d s)
  | .tls10 => (.done, deriveKeys .tls10 d s)
  | .tls11 => (.done, deriveKeys .tls11 d s)

end Sys2Proof.Machine
end

