-- ==== Sys2Proof/Machine/Decrypt.lean ====
section
/-! DEFINITION. The record decryption engine (44_record_decryption): bulk decryption, padding removal, MAC verification, the
sequence counter. -/
namespace Sys2Proof.Machine

/-! ### Bulk decryption -/

/-- `CBC_DEC` (R234) over the blocks of `ct`, `prev` being `C_(i-1)`; the first argument bounds the number of blocks. -/
def cbcBlocks (c : Cipher) (key : Bytes) (blockLen : Nat) : Nat → Bytes → Bytes → Bytes
  | 0, _, _ => []
  | fuel + 1, prev, ct =>
    match ct with
    | [] => []
    | _ :: _ =>
      xorBytes (blockDec c key (ct.take blockLen)) prev ++
        cbcBlocks c key blockLen fuel (ct.take blockLen) (ct.drop blockLen)

/-- `CBC_DEC(cipher, key, iv, ct)` (R234). -/
def cbcDec (c : Cipher) (key : Bytes) (blockLen : Nat) (iv ct : Bytes) : Bytes :=
  cbcBlocks c key blockLen ct.length iv ct

/-- `CheckLen(len, min, bl)` (R236): whether the length is accepted. -/
def checkLen (len min bl : Nat) : Bool :=
  min ≤ len && len % bl == 0

/-- `SplitIv` (R235): the IV and the ciphertext, or nothing where `CheckLen` raises. -/
def splitIv (cls : VersionClass) (p : CipherSuiteParams) (k : KeyBank) (payload : Bytes) : Option (Bytes × Bytes) :=
  if cls = .tls11 then
    if checkLen payload.length (2 * p.blockLen) p.blockLen then
      some (payload.take p.blockLen, payload.drop p.blockLen)
    else none
  else if checkLen payload.length p.blockLen p.blockLen then some (k.iv, payload)
  else none

/-! ### Padding -/

/-- `Unpad(cls, p, pt)` (R237, R238). An empty `pt` has no pad-length byte; whatever byte were there, `pl + 1 > 0` (log entry
21). -/
def unpad (cls : VersionClass) (mode : PaddingCheck) (p : CipherSuiteParams) (pt : Bytes) : Except FatalError Bytes :=
  match pt.getLast? with
  | none => .error .padOverrun
  | some pl =>
    if pt.length < pl.toNat + 1 then .error .padOverrun
    else if cls = .sslv3 ∧ mode = .lengthOnly then
      if p.blockLen < pl.toNat + 1 then .error .padOverrun
      else .ok (pt.take (pt.length - 1 - pl.toNat))
    else if (slice pt (pt.length - 1 - pl.toNat) pl.toNat).all (· == pl) then
      .ok (pt.take (pt.length - 1 - pl.toNat))
    else .error .padByteMismatch

/-! ### MAC -/

/-- The MAC input of R89 and R242. -/
def macInput (seq : BitVec 64) (type vmaj vmin : Byte) (frag : Bytes) : Bytes :=
  encBe 8 seq.toNat ++ [type, vmaj, vmin] ++ encBe 2 frag.length ++ frag

/-- The SSLv3 MAC input of R243: no version bytes. -/
def ssl3MacInput (seq : BitVec 64) (type : Byte) (frag : Bytes) : Bytes :=
  encBe 8 seq.toNat ++ [type] ++ encBe 2 frag.length ++ frag

/-- The number of pad bytes of the SSLv3 MAC (R243). -/
def ssl3PadLen : MacAlg → Nat
  | .md5 => 48
  | .sha1 => 40

/-- `Ssl3Mac` (R243). -/
def ssl3Mac (alg : MacAlg) (key : Bytes) (seq : BitVec 64) (type : Byte) (frag : Bytes) : Bytes :=
  hash alg (key ++ repeatByte 0x5c (ssl3PadLen alg) ++
    hash alg (key ++ repeatByte 0x36 (ssl3PadLen alg) ++ ssl3MacInput seq type frag))

/-- `RecordMac` (R239). For a suite without a MAC algorithm, a free value (log entry 8). -/
def recordMac (cls : VersionClass) (mode : MacMode) (p : CipherSuiteParams) (key : Bytes) (seq : BitVec 64)
    (type vmaj vmin : Byte) (frag : Bytes) : Bytes :=
  match p.macAlg with
  | none => Config.macWithoutAlg key (macInput seq type vmaj vmin frag)
  | some alg =>
    if cls.isTls ∨ mode = .hmac then hmac alg key (macInput seq type vmaj vmin frag)
    else ssl3Mac alg key seq type frag

/-! ### The operation -/

/-- Step 1 and step 2 of `Decrypt` (R230): the bank after bulk decryption and the body, or the raise that padding or ciphertext
length makes. -/
def decryptBody (cls : VersionClass) (mode : PaddingCheck) (p : CipherSuiteParams) (k : KeyBank) (payload : Bytes) :
    KeyBank × Except FatalError Bytes :=
  match p.family with
  | .stream =>
    ({ k with streamState := some (streamApply (k.streamState.getD Config.unsetStreamState) payload).1 },
      .ok (streamApply (k.streamState.getD Config.unsetStreamState) payload).2)
  | .block =>
    match splitIv cls p k payload with
    | none => (k, .error .badCiphertextLength)
    | some (iv, ct) =>
      (if cls.chainsIv then { k with iv := ct.drop (ct.length - p.blockLen) } else k,
        unpad cls mode p (cbcDec p.cipher k.encKey p.blockLen iv ct))

/-- The fragment of a body (R230): the body without its last `mac_len` bytes. -/
def fragmentOf (p : CipherSuiteParams) (body : Bytes) : Bytes :=
  body.take (body.length - p.macLen)

/-- Step 3 of `Decrypt` (R230, R239, R244, R245): whether the body carries its MAC. -/
def checkMac (cls : VersionClass) (mode : MacMode) (p : CipherSuiteParams) (k : KeyBank) (type vmaj vmin : Byte)
    (body : Bytes) : Option FatalError :=
  if body.length < p.macLen then some .recordTooShort
  else if recordMac cls mode p k.macKey k.seq type vmaj vmin (fragmentOf p body) =
      body.drop (body.length - p.macLen) then none
  else some .macMismatch

/-- Steps 3 to 5 of `Decrypt` (R230): MAC, sequence counter (R240), output (R241). -/
def acceptBody (cls : VersionClass) (p : CipherSuiteParams) (d : Dir) (type vmaj vmin : Byte) (body : Bytes) (s : State) :
    RuleResult × State :=
  match checkMac cls s.params.macMode p (s.peer d).keys type vmaj vmin body with
  | some e => (.fatal e, s)
  | none =>
    if (s.peer d).keys.seq = BitVec.allOnes 64 then (.fatal .seqExhausted, s)
    else
      (.done, State.emit (s.setKeys d { (s.peer d).keys with seq := (s.peer d).keys.seq + 1 })
        (.decrypted d type (fragmentOf p body)))

/-- `Decrypt(d, type, vmaj, vmin, payload)` (R230). The writes of a step before a raise persist (R57). -/
def decrypt (d : Dir) (type vmaj vmin : Byte) (payload : Bytes) (s : State) : RuleResult × State :=
  match decryptBody (versionClass s.conn.version) s.params.paddingCheck s.suite (s.peer d).keys payload with
  | (k, .error e) => (.fatal e, s.setKeys d k)
  | (k, .ok body) => acceptBody (versionClass s.conn.version) s.suite d type vmaj vmin body (s.setKeys d k)

end Sys2Proof.Machine
end

