-- ==== Sys2Proof/Machine/Extensions.lean ====
section
/-! DEFINITION. The ClientHello extensions and the entries of a server_name list (42_handshake R171, R183, R184, R185). Each works on
the variables of the ClientHello in progress, `State.work`; R170 commits them. -/
namespace Sys2Proof.Machine

/-- Run an extension or a list entry by itself: a raise disables the connection, charged to direction 0, where ClientHellos are
(R165); a disabled engine interprets nothing (R131; log entry 5). DESIGN CHOICE: a closed engine runs it as an open one does (log
entry 27). -/
def runHelloPart (rule : State → RuleResult × State) (s : State) : State :=
  if s.conn.disabled then s
  else
    match rule s with
    | (.fatal e, s') => s'.disable .clientToServer e
    | (.done, s') => s'
    | (.wait, s') => s'

/-! ### Entries of a server_name list -/

/-- A host_name entry (R183): the first one of a list is kept. -/
def hostNameEntry (name : Bytes) (s : State) : RuleResult × State :=
  if s.work.found then (.done, s) else (.done, { s with work := { s.work with sni := name, found := true } })

/-- An entry of any other name type (R78, R183): skipped. -/
def otherNameEntry (s : State) : RuleResult × State :=
  (.done, s)

/-- An entry by its name type (R78). -/
def sniEntry (nameType : Byte) (name : Bytes) (s : State) : RuleResult × State :=
  match nameType.toNat with
  | 0 => hostNameEntry name s
  | _ => otherNameEntry s

/-- The loop over the entries of a server_name list (R183); an entry has at least three bytes, so the length is enough fuel. -/
def sniLoop : Nat → Bytes → State → RuleResult × State
  | 0, _, s => (.done, s)
  | fuel + 1, list, s =>
    match list with
    | [] => (.done, s)
    | _ :: _ =>
      match splitFrame 3 1 list with
      | .error _ => (.fatal .chMalformed, s)
      | .ok (h, name, rest) =>
        match sniEntry (byteAt h 0) name s with
        | (.done, s') => sniLoop fuel rest s'
        | (.wait, s') => (.wait, s')
        | (.fatal e, s') => (.fatal e, s')

/-! ### Extensions -/

/-- `ServerName(data, sni')` (R183). -/
def serverNameExt (data : Bytes) (s : State) : RuleResult × State :=
  match data with
  | [] => (.done, s)
  | _ :: _ =>
    match splitFrame 2 0 data with
    | .error _ => (.fatal .chMalformed, s)
    | .ok (_, list, _) => sniLoop list.length list { s with work := { s.work with found := false } }

/-- The session_ticket extension (R184). -/
def sessionTicketExt (data : Bytes) (s : State) : RuleResult × State :=
  (.done, { s with work := { s.work with ticket := data } })

/-- Any other extension (R185): skipped. -/
def otherExt (s : State) : RuleResult × State :=
  (.done, s)

/-- An extension by its type (R77, R171). -/
def extensionByType (t : Nat) (data : Bytes) (s : State) : RuleResult × State :=
  match t with
  | 0 => serverNameExt data s
  | 35 => sessionTicketExt data s
  | _ => otherExt s

/-- `Extensions(ext, sni', ticket')` (R171); an extension has at least four bytes, so the length is enough fuel. -/
def extensionsLoop : Nat → Bytes → State → RuleResult × State
  | 0, _, s => (.done, s)
  | fuel + 1, ext, s =>
    match ext with
    | [] => (.done, s)
    | _ :: _ =>
      match splitFrame 4 2 ext with
      | .error _ => (.fatal .chMalformed, s)
      | .ok (h, data, rest) =>
        match extensionByType (beNat (h.take 2)) data s with
        | (.done, s') => extensionsLoop fuel rest s'
        | (.wait, s') => (.wait, s')
        | (.fatal e, s') => (.fatal e, s')

/-! ### Meanings -/

/-- `EXT.server_name` (R183). -/
def execExtServerName (data : Bytes) (s : State) : Host.Outcome State Fault Refusal :=
  .next (runHelloPart (serverNameExt data) s)

/-- `EXT.session_ticket` (R184). -/
def execExtSessionTicket (data : Bytes) (s : State) : Host.Outcome State Fault Refusal :=
  .next (runHelloPart (sessionTicketExt data) s)

/-- `EXT.other` (R185). -/
def execExtOther (_type : BitVec 16) (_data : Bytes) (s : State) : Host.Outcome State Fault Refusal :=
  .next (runHelloPart otherExt s)

/-- `SNI.host_name` (R183). -/
def execSniHostName (name : Bytes) (s : State) : Host.Outcome State Fault Refusal :=
  .next (runHelloPart (hostNameEntry name) s)

/-- `SNI.other` (R183). -/
def execSniOther (_type : Byte) (_name : Bytes) (s : State) : Host.Outcome State Fault Refusal :=
  .next (runHelloPart otherNameEntry s)

end Sys2Proof.Machine
end

