-- ==== Sys2Proof/Machine/Handshake.lean ====
section
/-! DEFINITION. The handshake message parsers (42_handshake) and the loop over the messages of a plaintext handshake record. -/
namespace Sys2Proof.Machine

/-- Run a handshake message by itself: on `Done` its `HsMsg` event follows its writes (R169); a raise disables the connection,
charged to its direction (R262); a disabled engine interprets nothing (R131; log entry 5). DESIGN CHOICE: a closed engine runs it as
an open one does (log entry 27). -/
def runMessage (d : Dir) (hsType : Byte) (body : Bytes) (rule : State → RuleResult × State) (s : State) : State :=
  if s.conn.disabled then s
  else
    match rule s with
    | (.done, s') => s'.emit (.hsMsg d hsType body)
    | (.fatal e, s') => s'.disable d e
    | (.wait, s') => s'

/-! ### ClientHello -/

/-- `conn.compression` after a ClientHello with the compression methods `ms` (R186, R189). -/
def clientCompression (ms : Bytes) (old : Byte) : Byte :=
  match ms with
  | [] => old
  | m :: _ => m

/-- The register writes of an accepted ClientHello (R170). Both hellos write `conn.compression`, so the later one's byte stays,
against R295 (log entry 24). -/
def commitClientHello (f : ClientHelloFields) (s : State) : State :=
  State.setHs
    { s with conn := { s.conn with
        clientRandom := f.random, clientSessionId := f.sessionId,
        compression := clientCompression f.compressionMethods s.conn.compression,
        sni := s.work.sni, clientTicket := s.work.ticket, clientRandomSet := true } }
    .clientToServer .sawHello

/-- The variables `sni'` and `ticket'` at the start of a ClientHello's extensions (R170). -/
def startWork (s : State) : State :=
  { s with work := { sni := s.conn.sni, ticket := s.conn.clientTicket, found := false } }

/-- A ClientHello whose fields are parsed (R170): the extensions in order, then the writes. -/
def clientHelloFields (f : ClientHelloFields) (s : State) : RuleResult × State :=
  match extensionsLoop (f.ext.getD []).length (f.ext.getD []) (startWork s) with
  | (.done, s') => (.done, commitClientHello f s')
  | (.wait, s') => (.wait, s')
  | (.fatal e, s') => (.fatal e, s')

/-- `ClientHello(body)` (R170), with the direction check of R165 and the duplicate check of R166. -/
def clientHello (d : Dir) (body : Bytes) (s : State) : RuleResult × State :=
  if d ≠ .clientToServer then (.fatal .wrongDirection, s)
  else if s.peer0.hsState ≠ .start then (.fatal .duplicateMessage, s)
  else
    match parseClientHello body with
    | none => (.fatal .chMalformed, s)
    | some f => clientHelloFields f s

/-! ### ServerHello -/

/-- `CIPHER_SUITE_TABLE(cs)`; where a table lists an id twice, its first row (log entry 17). -/
def suiteRow (cs : BitVec 16) (table : List (BitVec 16 × CipherSuiteParams)) : Option CipherSuiteParams :=
  (table.find? fun r => r.1 == cs).map (·.2)

/-- `LookupSuite(cs)` (R173). -/
def lookupSuite (cs : BitVec 16) (table : List (BitVec 16 × CipherSuiteParams)) : Except FatalError LoadedSuite :=
  match suiteRow cs table with
  | none => .error .unknownSuite
  | some p => if p.keyExchangeIsRsa then .ok { id := cs, suite := p } else .error .nonRsaSuite

/-- The writes of a ServerHello before the suite lookup (R172, D52); `conn.compression` as in log entry 24. -/
def populateServerHello (f : ServerHelloFields) (s : State) : State :=
  { s with conn := { s.conn with
      version := f.version, serverRandom := f.random, serverSessionId := f.sessionId,
      cipherSuite := f.suite, compression := f.compression } }

/-- The writes of an accepted ServerHello (R172). -/
def acceptServerHello (l : LoadedSuite) (s : State) : State :=
  State.setHs { s with conn := { s.conn with params := some l, serverRandomSet := true } } .serverToClient .sawHello

/-- `ServerHello(body)` (R172), with the direction check of R165 and the duplicate check of R166. -/
def serverHello (d : Dir) (body : Bytes) (s : State) : RuleResult × State :=
  if d ≠ .serverToClient then (.fatal .wrongDirection, s)
  else if s.peer1.hsState ≠ .start then (.fatal .duplicateMessage, s)
  else
    match parseServerHello body with
    | none => (.fatal .shMalformed, s)
    | some f =>
      match lookupSuite f.suite s.params.suiteTable with
      | .error e => (.fatal e, populateServerHello f s)
      | .ok l => (.done, acceptServerHello l (populateServerHello f s))

/-! ### ClientKeyExchange and NewSessionTicket -/

/-- `ClientKeyExchange(body)` (R174), with the direction check of R165 and the duplicate check of R166. -/
def clientKeyExchange (d : Dir) (body : Bytes) (s : State) : RuleResult × State :=
  if d ≠ .clientToServer then (.fatal .wrongDirection, s)
  else if s.conn.premasterSet then (.fatal .duplicateMessage, s)
  else
    match parseClientKeyExchange body with
    | none => (.fatal .ckeMalformed, s)
    | some enc => premasterRecover enc { s with conn := { s.conn with premasterSecret := enc } }

/-- `NewSessionTicket(body)` (R175), with the direction check of R165; a repeated one overwrites (R166). -/
def newSessionTicket (d : Dir) (body : Bytes) (s : State) : RuleResult × State :=
  if d ≠ .serverToClient then (.fatal .wrongDirection, s)
  else
    match parseNewSessionTicket body with
    | none => (.fatal .nstMalformed, s)
    | some t => (.done, { s with conn := { s.conn with serverTicket := t } })

/-- A skipped message (R167, R168, R176 to R182): no write, no error. -/
def skipMessage (s : State) : RuleResult × State :=
  (.done, s)

/-! ### The message loop -/

/-- `HandshakeMessage(d, t, body)` (R164). -/
def handshakeMessage (d : Dir) (t : Byte) (body : Bytes) (s : State) : RuleResult × State :=
  match t.toNat with
  | 1 => clientHello d body s
  | 2 => serverHello d body s
  | 4 => newSessionTicket d body s
  | 16 => clientKeyExchange d body s
  | 0 => skipMessage s
  | 11 => skipMessage s
  | 12 => skipMessage s
  | 13 => skipMessage s
  | 14 => skipMessage s
  | 15 => skipMessage s
  | 20 => skipMessage s
  | _ => skipMessage s

/-- The loop of R160 over the messages of `payload`; a message has at least four bytes, so the length is enough fuel. -/
def messagesLoop (d : Dir) : Nat → Bytes → State → RuleResult × State
  | 0, _, s => (.done, s)
  | fuel + 1, payload, s =>
    match payload with
    | [] => (.done, s)
    | _ :: _ =>
      match splitFrame 4 1 payload with
      | .error e => (.fatal (messageError e), s)
      | .ok (h, body, rest) =>
        match handshakeMessage d (byteAt h 0) body s with
        | (.done, s') => messagesLoop d fuel rest (s'.emit (.hsMsg d (byteAt h 0) body))
        | (.wait, s') => (.wait, s')
        | (.fatal e, s') => (.fatal e, s')

/-- `HandshakePlain(d, payload)` (R160). -/
def handshakePlain (d : Dir) (payload : Bytes) (s : State) : RuleResult × State :=
  messagesLoop d payload.length payload s

/-! ### Meanings -/

/-- `HS.HelloRequest` (R176). -/
def execHsHelloRequest (d : Dir) (body : Bytes) (s : State) : Host.Outcome State Fault Refusal :=
  .next (runMessage d 0 body skipMessage s)

/-- `HS.ClientHello` (R170). -/
def execHsClientHello (d : Dir) (body : Bytes) (s : State) : Host.Outcome State Fault Refusal :=
  .next (runMessage d 1 body (clientHello d body) s)

/-- `HS.ServerHello` (R172). -/
def execHsServerHello (d : Dir) (body : Bytes) (s : State) : Host.Outcome State Fault Refusal :=
  .next (runMessage d 2 body (serverHello d body) s)

/-- `HS.NewSessionTicket` (R175). -/
def execHsNewSessionTicket (d : Dir) (body : Bytes) (s : State) : Host.Outcome State Fault Refusal :=
  .next (runMessage d 4 body (newSessionTicket d body) s)

/-- `HS.Certificate` (R177). -/
def execHsCertificate (d : Dir) (body : Bytes) (s : State) : Host.Outcome State Fault Refusal :=
  .next (runMessage d 11 body skipMessage s)

/-- `HS.ServerKeyExchange` (R178). -/
def execHsServerKeyExchange (d : Dir) (body : Bytes) (s : State) : Host.Outcome State Fault Refusal :=
  .next (runMessage d 12 body skipMessage s)

/-- `HS.CertificateRequest` (R179). -/
def execHsCertificateRequest (d : Dir) (body : Bytes) (s : State) : Host.Outcome State Fault Refusal :=
  .next (runMessage d 13 body skipMessage s)

/-- `HS.ServerHelloDone` (R180). -/
def execHsServerHelloDone (d : Dir) (body : Bytes) (s : State) : Host.Outcome State Fault Refusal :=
  .next (runMessage d 14 body skipMessage s)

/-- `HS.CertificateVerify` (R181). -/
def execHsCertificateVerify (d : Dir) (body : Bytes) (s : State) : Host.Outcome State Fault Refusal :=
  .next (runMessage d 15 body skipMessage s)

/-- `HS.ClientKeyExchange` (R174). -/
def execHsClientKeyExchange (d : Dir) (body : Bytes) (s : State) : Host.Outcome State Fault Refusal :=
  .next (runMessage d 16 body (clientKeyExchange d body) s)

/-- `HS.Finished` in plaintext (R182). -/
def execHsFinished (d : Dir) (body : Bytes) (s : State) : Host.Outcome State Fault Refusal :=
  .next (runMessage d 20 body skipMessage s)

/-- `HS.unknown` (R168). -/
def execHsUnknown (d : Dir) (type : Byte) (body : Bytes) (s : State) : Host.Outcome State Fault Refusal :=
  .next (runMessage d type body skipMessage s)

end Sys2Proof.Machine
end

