-- ==== Sys2Proof/Machine/Records.lean ====
section
/-! DEFINITION. The record layer (41_record_layer): one rule per content type, dispatch, and the step of a direction. -/
namespace Sys2Proof.Machine

/-! ### The rules of the content types -/

/-- `HandshakeEnc` (R136): a first decrypted Handshake record after ChangeCipherSpec enters `Finished` (R151). -/
def handshakeEnc (d : Dir) (vmaj vmin : Byte) (payload : Bytes) (s : State) : RuleResult × State :=
  match decrypt d 22 vmaj vmin payload s with
  | (.done, s') =>
    if (s'.peer d).hsState = .changeCipherSpecSeen then (.done, s'.setHs d .finished) else (.done, s')
  | (.wait, s') => (.wait, s')
  | (.fatal e, s') => (.fatal e, s')

/-- The part of R145 after the readiness check: the key schedule if no other ChangeCipherSpec has run it, then `Ccs(d)`. -/
def ccsReady (d : Dir) (s : State) : RuleResult × State :=
  if s.conn.keyScheduleDone then (.done, s.emit (.ccs d))
  else
    match keySchedule d s with
    | (.done, s') => (.done, State.emit { s' with conn := { s'.conn with keyScheduleDone := true } } (.ccs d))
    | (.wait, s') => (.wait, s')
    | (.fatal e, s') => (.fatal e, s')

/-- `ChangeCipherSpec(d)` (R145, R146, R140): the state advances before the readiness check. -/
def changeCipherSpec (d : Dir) (s : State) : RuleResult × State :=
  if s.conn.ready then ccsReady d (s.setHs d (hsMax (s.peer d).hsState .changeCipherSpecSeen))
  else if (s.peer d.other).hsState.reachedCcs then
    (.fatal .ccsWithoutKeys, s.setHs d (hsMax (s.peer d).hsState .changeCipherSpecSeen))
  else (.wait, s.setHs d (hsMax (s.peer d).hsState .changeCipherSpecSeen))

/-- `AlertPlain(d, payload)` (R147). -/
def alertPlain (d : Dir) (payload : Bytes) (s : State) : RuleResult × State :=
  (.done, s.emit (.plainAlert d payload))

/-- `AlertEnc` (R148). -/
def alertEnc (d : Dir) (vmaj vmin : Byte) (payload : Bytes) (s : State) : RuleResult × State :=
  decrypt d 21 vmaj vmin payload s

/-- `ApplicationData` (R149, R150). -/
def applicationData (d : Dir) (vmaj vmin : Byte) (payload : Bytes) (s : State) : RuleResult × State :=
  if s.conn.ready then
    if s.conn.keyScheduleDone then decrypt d 23 vmaj vmin payload s else (.wait, s)
  else if (s.peer d.other).hsState.reachedCcs then (.fatal .appdataWithoutKeys, s)
  else (.wait, s)

/-- A record of any other content type (R132). -/
def illegalRecord (s : State) : RuleResult × State :=
  (.fatal .unknownContentType, s)

/-- `Dispatch(d, type, vmaj, vmin, payload)` (R134). -/
def dispatch (d : Dir) (type vmaj vmin : Byte) (payload : Bytes) (s : State) : RuleResult × State :=
  match type.toNat with
  | 22 =>
    if (s.peer d).hsState.reachedCcs then handshakeEnc d vmaj vmin payload s else handshakePlain d payload s
  | 20 => changeCipherSpec d s
  | 21 => if (s.peer d).hsState.reachedCcs then alertEnc d vmaj vmin payload s else alertPlain d payload s
  | 23 => applicationData d vmaj vmin payload s
  | _ => illegalRecord s

/-! ### The step of a direction

A step answers `(true, s)` for `Progress` and `(false, s)` for `Blocked` (R130). -/

/-- `Passthrough(d)` (R131). -/
def passthrough (d : Dir) (s : State) : Bool × State :=
  (0 < s.avail d, s.surface d)

/-- What follows the dispatch of a record of `n` bytes (R130): consume it, leave it, or disable. -/
def finishRecord (d : Dir) (n : Nat) (r : RuleResult × State) : Host.Outcome (Bool × State) Fault Refusal :=
  match r with
  | (.done, s) =>
    match s.consume d n with
    | .next s' => .next (true, s')
    | .fault f => .fault f
    | .refused x => .refused x
  | (.wait, s) => .next (false, s)
  | (.fatal e, s) => .next (true, s.disable d e)

/-- One step of direction `d` on a record of `n` bytes whose rule is `rule` (R130): passthrough while disabled, `Blocked` while the
record is not buffered, else its rule. DESIGN CHOICE: a closed engine, whose drain never runs, steps as an open one does (log entry
27). -/
def runRecord (d : Dir) (n : Nat) (rule : State → RuleResult × State) (s : State) :
    Host.Outcome (Bool × State) Fault Refusal :=
  if s.conn.disabled then .next (passthrough d s)
  else if s.avail d < n then .next (false, s)
  else finishRecord d n (rule s)

/-- The record at the cursor of `d` (R130, R56): a peek of the 5-byte header, then of the whole record; `none` is NeedMoreData. -/
def fetchRecord (d : Dir) (s : State) : Option Bytes :=
  (s.peek d 5).bind fun hdr => s.peek d (5 + beNat (hdr.drop 3))

/-- `StepDir(d)` (R130). -/
def stepDir (d : Dir) (s : State) : Host.Outcome (Bool × State) Fault Refusal :=
  if s.conn.disabled then .next (passthrough d s)
  else
    match fetchRecord d s with
    | none => .next (false, s)
    | some r => runRecord d r.length (dispatch d (byteAt r 0) (byteAt r 1) (byteAt r 2) (r.drop 5)) s

/-- The state a step leaves, without its `Progress` or `Blocked`. -/
def stateOf (o : Host.Outcome (Bool × State) Fault Refusal) : Host.Outcome State Fault Refusal :=
  match o with
  | .next r => .next r.2
  | .fault f => .fault f
  | .refused x => .refused x

/-! ### Meanings: the step of `d` whose record is the instruction -/

/-- `CCS` (R145, R146, R140). -/
def execCcs (d : Dir) (_vmaj _vmin : Byte) (payload : Bytes) (s : State) : Host.Outcome State Fault Refusal :=
  stateOf (runRecord d (5 + payload.length) (changeCipherSpec d) s)

/-- `ALERT.plain` (R147). -/
def execAlertPlain (d : Dir) (_vmaj _vmin : Byte) (payload : Bytes) (s : State) :
    Host.Outcome State Fault Refusal :=
  stateOf (runRecord d (5 + payload.length) (alertPlain d payload) s)

/-- `ALERT.protected` (R148). -/
def execAlertProtected (d : Dir) (vmaj vmin : Byte) (payload : Bytes) (s : State) : Host.Outcome State Fault Refusal :=
  stateOf (runRecord d (5 + payload.length) (alertEnc d vmaj vmin payload) s)

/-- `HANDSHAKE.plain` (R135, R160). -/
def execHandshakePlain (d : Dir) (_vmaj _vmin : Byte) (payload : Bytes) (s : State) :
    Host.Outcome State Fault Refusal :=
  stateOf (runRecord d (5 + payload.length) (handshakePlain d payload) s)

/-- `HANDSHAKE.protected` (R136). -/
def execHandshakeProtected (d : Dir) (vmaj vmin : Byte) (payload : Bytes) (s : State) : Host.Outcome State Fault Refusal :=
  stateOf (runRecord d (5 + payload.length) (handshakeEnc d vmaj vmin payload) s)

/-- `APPDATA` (R149, R150). -/
def execAppData (d : Dir) (vmaj vmin : Byte) (payload : Bytes) (s : State) : Host.Outcome State Fault Refusal :=
  stateOf (runRecord d (5 + payload.length) (applicationData d vmaj vmin payload) s)

/-- `RECORD.illegal` (R132). -/
def execRecordIllegal (d : Dir) (_type _vmaj _vmin : Byte) (payload : Bytes) (s : State) :
    Host.Outcome State Fault Refusal :=
  stateOf (runRecord d (5 + payload.length) illegalRecord s)

end Sys2Proof.Machine
end

