-- ==== Sys2Proof/Machine/Commands.lean ====
section
/-! DEFINITION. The host commands (40_host_interface): CREATE, FEED with its drain, STATUS, FINISH, and the refusal of anything else;
and the bytes of responses, events and the register dump (30_encoding R94 to R96). -/
namespace Sys2Proof.Machine

/-! ### Serialisation -/

/-- The 4-byte length prefix of a byte string (R95, R96); of `2^32` bytes or more, a free value (log entry 9). -/
def lengthPrefix (n : Nat) : Bytes :=
  if n < 4294967296 then encBe 4 n else (Config.longLength n).toList

/-- A byte string with its length prefix (R95, R96). -/
def prefixed (bs : Bytes) : Bytes :=
  lengthPrefix bs.length ++ bs

/-- The byte `d` of an event (R95), and `conn.error_dir` in the dump (R96). -/
def dirByte (d : Dir) : Byte :=
  BitVec.ofNat 8 d.index

/-- The bytes of an event (R95). -/
def Event.bytes : Event → Bytes
  | .hsMsg d t body => [0x01, dirByte d, t] ++ prefixed body
  | .ccs d => [0x02, dirByte d]
  | .keysDerived d => [0x03, dirByte d]
  | .plainAlert d payload => [0x04, dirByte d] ++ prefixed payload
  | .decrypted d t frag => [0x05, dirByte d, t] ++ prefixed frag
  | .raw d bs => [0x06, dirByte d] ++ prefixed bs
  | .error d kind detail => [0x07, dirByte d, kind, detail]

/-- The bytes of a response (R94, R116): the result code, the events in emission order, the dump of a STATUS. DESIGN CHOICE: the
spec gives the bytes of each part but not how they stand together; here they follow each other, with no count of events, no
separator and no terminator (log entry 23). -/
def Response.bytes (r : Response) : Bytes :=
  r.result.code :: (r.events.flatMap Event.bytes ++ r.dump)

/-- A one-bit register in the dump (R96). -/
def bitByte (b : Bool) : Bytes :=
  if b then [0x01] else [0x00]

/-- Registers 0x00 to 0x15 in number order (R20, R22, R25, R96). `conn.params` is its suite id, or no byte at all when it is
`None` (log entry 17). -/
def connDump (c : Conn) : Bytes :=
  encBe 2 c.version.toNat ++ encBe 2 c.cipherSuite.toNat ++
  (match c.params with
    | some l => encBe 2 l.id.toNat
    | none => []) ++
  [c.compression] ++ c.clientRandom ++ c.serverRandom ++
  prefixed c.clientSessionId ++ prefixed c.serverSessionId ++ prefixed c.clientTicket ++ prefixed c.serverTicket ++
  prefixed c.sni ++ prefixed c.premasterSecret ++ prefixed c.masterSecret ++
  [c.errorKind, c.errorDetail, dirByte c.errorDir] ++
  bitByte c.clientRandomSet ++ bitByte c.serverRandomSet ++ bitByte c.premasterSet ++ bitByte c.keyScheduleDone ++
  bitByte c.disabled ++ bitByte c.closed

/-- The registers of a direction bank in offset order (R26, R96): the buffer as its unconsumed suffix, the cursor in a layout the
spec leaves open (log entry 10), `stream_state` not exported. -/
def peerDump (s : State) (d : Dir) : Bytes :=
  [BitVec.ofNat 8 (s.peer d).hsState.rank] ++ prefixed (s.unconsumed d) ++ Config.cursorBytes (s.peer d).stream.cursor ++
  prefixed (s.peer d).keys.macKey ++ prefixed (s.peer d).keys.encKey ++ prefixed (s.peer d).keys.iv ++
  encBe 8 (s.peer d).keys.seq.toNat

/-- The register dump of STATUS (R96). -/
def statusDump (s : State) : Bytes :=
  connDump s.conn ++ peerDump s .clientToServer ++ peerDump s .serverToClient

/-! ### The drain -/

/-- `RunDir(e)` (R113): steps of `e` until one is `Blocked`; `p` is `progressed`. The first argument bounds the number of steps:
one more than `Avail(e)` is enough (R114). -/
def runDirLoop (e : Dir) : Nat → Bool → State → Host.Outcome (Bool × State) Fault Refusal
  | 0, p, s => .next (p, s)
  | fuel + 1, p, s =>
    match stepDir e s with
    | .next (true, s') => runDirLoop e fuel true s'
    | .next (false, s') => .next (p, s')
    | .fault f => .fault f
    | .refused x => .refused x

/-- `RunDir(e)` (R113). -/
def runDir (e : Dir) (s : State) : Host.Outcome (Bool × State) Fault Refusal :=
  runDirLoop e (s.avail e + 1) false s

/-- The loop of `Drain(d)` (R113). The first argument bounds the number of rounds: one more than `Avail(0) + Avail(1)` is enough
(R114). -/
def drainLoop (d : Dir) : Nat → State → Host.Outcome State Fault Refusal
  | 0, s => .next s
  | fuel + 1, s =>
    match runDir d s with
    | .fault f => .fault f
    | .refused x => .refused x
    | .next (pa, s1) =>
      match runDir d.other s1 with
      | .fault f => .fault f
      | .refused x => .refused x
      | .next (pb, s2) => if pa || pb then drainLoop d fuel s2 else .next s2

/-- `Drain(d)` (R113). -/
def drain (d : Dir) (s : State) : Host.Outcome State Fault Refusal :=
  drainLoop d (s.avail .clientToServer + s.avail .serverToClient + 1) s

/-! ### Commands -/

/-- The direction a FEED names (R93), if it names one. -/
def feedDir (d : Byte) : Option Dir :=
  match d.toNat with
  | 0 => some .clientToServer
  | 1 => some .serverToClient
  | _ => none

/-- The result code of a FEED (R112). -/
def feedResult (wasDisabled disabled : Bool) : ResultCode :=
  if wasDisabled then .disabled else if disabled then .fatal else .ok

/-- `FEED(d, bytes)` on an open engine (R112): append, drain, result. -/
def feedOpen (d : Dir) (bs : Bytes) (s : State) : Host.Outcome State Fault Refusal :=
  match drain d ((s.respond .ok).append d bs) with
  | .next s' => .next (s'.setResult (feedResult s.conn.disabled s'.conn.disabled))
  | .fault f => .fault f
  | .refused x => .refused x

/-! ### Meanings -/

/-- `CREATE` (R111): a new engine; what a host has put at the port is the host's and stays. -/
def execCreate (p : Params) (s : State) : Host.Outcome State Fault Refusal :=
  .next (State.fresh p s.pending)

/-- `FEED` (R112, R119). -/
def execFeed (d : Byte) (bs : Bytes) (s : State) : Host.Outcome State Fault Refusal :=
  if s.conn.closed then .next (s.respond .refused)
  else
    match feedDir d with
    | none => .next (s.respond .refused)
    | some dir => feedOpen dir bs s

/-- `STATUS` (R116): the response `(OK, [])` with the register dump. -/
def execStatus (s : State) : Host.Outcome State Fault Refusal :=
  .next { s with response := { result := .ok, events := [], dump := statusDump s } }

/-- The register writes and events of FINISH on an open engine (R118). -/
def finishOpen (s : State) : State :=
  { (((s.respond .ok).surface .clientToServer).surface .serverToClient) with
    conn := { s.conn with closed := true } }

/-- `FINISH` (R118, R119). -/
def execFinish (s : State) : Host.Outcome State Fault Refusal :=
  if s.conn.closed then .next (s.respond .refused)
  else .next ((finishOpen s).setResult (if s.conn.disabled then .disabled else .ok))

/-- `CMD.illegal` (R119): refused, no event, no register write. -/
def execCmdIllegal (_opcode : Byte) (s : State) : Host.Outcome State Fault Refusal :=
  .next (s.respond .refused)

end Sys2Proof.Machine
end

