-- ==== Sys2Proof/Machine/Dispatch.lean ====
section
/-! DEFINITION. The meaning of every instruction, one arm per constructor. -/
namespace Sys2Proof.Machine

def exec (i : Instr) (s : State) : Host.Outcome State Fault Refusal :=
  match i with
  | .ccs d vmaj vmin payload => Sys2Proof.Machine.execCcs d vmaj vmin payload s
  | .alertPlain d vmaj vmin payload => Sys2Proof.Machine.execAlertPlain d vmaj vmin payload s
  | .alertProtected d vmaj vmin payload => Sys2Proof.Machine.execAlertProtected d vmaj vmin payload s
  | .handshakePlain d vmaj vmin payload => Sys2Proof.Machine.execHandshakePlain d vmaj vmin payload s
  | .handshakeProtected d vmaj vmin payload => Sys2Proof.Machine.execHandshakeProtected d vmaj vmin payload s
  | .appData d vmaj vmin payload => Sys2Proof.Machine.execAppData d vmaj vmin payload s
  | .recordIllegal d type vmaj vmin payload => Sys2Proof.Machine.execRecordIllegal d type vmaj vmin payload s
  | .hsHelloRequest d body => Sys2Proof.Machine.execHsHelloRequest d body s
  | .hsClientHello d body => Sys2Proof.Machine.execHsClientHello d body s
  | .hsServerHello d body => Sys2Proof.Machine.execHsServerHello d body s
  | .hsNewSessionTicket d body => Sys2Proof.Machine.execHsNewSessionTicket d body s
  | .hsCertificate d body => Sys2Proof.Machine.execHsCertificate d body s
  | .hsServerKeyExchange d body => Sys2Proof.Machine.execHsServerKeyExchange d body s
  | .hsCertificateRequest d body => Sys2Proof.Machine.execHsCertificateRequest d body s
  | .hsServerHelloDone d body => Sys2Proof.Machine.execHsServerHelloDone d body s
  | .hsCertificateVerify d body => Sys2Proof.Machine.execHsCertificateVerify d body s
  | .hsClientKeyExchange d body => Sys2Proof.Machine.execHsClientKeyExchange d body s
  | .hsFinished d body => Sys2Proof.Machine.execHsFinished d body s
  | .hsUnknown d type body => Sys2Proof.Machine.execHsUnknown d type body s
  | .extServerName data => Sys2Proof.Machine.execExtServerName data s
  | .extSessionTicket data => Sys2Proof.Machine.execExtSessionTicket data s
  | .extOther type data => Sys2Proof.Machine.execExtOther type data s
  | .sniHostName name => Sys2Proof.Machine.execSniHostName name s
  | .sniOther type name => Sys2Proof.Machine.execSniOther type name s
  | .create params => Sys2Proof.Machine.execCreate params s
  | .feed d data => Sys2Proof.Machine.execFeed d data s
  | .status => Sys2Proof.Machine.execStatus s
  | .finish => Sys2Proof.Machine.execFinish s
  | .cmdIllegal opcode => Sys2Proof.Machine.execCmdIllegal opcode s

end Sys2Proof.Machine
end

