-- ==== Sys2Proof/Machine/Fetch.lean ====
section
/-! DEFINITION. What a step does with the request before it, up to the instruction: the bytes are read in the request's format and
decoded (R93, R130, R160, R171, R183). -/
namespace Sys2Proof.Machine

/-- What fetching ends in: an instruction to run, a state with no instruction run, or no meaning. -/
inductive Fetched where
  | run (i : Instr)
  | stay (s : State)
  | refuse (r : Refusal)
  deriving DecidableEq, Repr

/-- Bytes that are no message, extension or entry raise what their loop raises (R162, R163, R171, R183), charged to `d`; a disabled
engine interprets nothing (R131; log entry 5). DESIGN CHOICE: a closed engine raises it as an open one does (log entry 27). -/
def raiseUndecodable (d : Dir) (e : FatalError) (s : State) : State :=
  if s.conn.disabled then s else s.disable d e

/-- A host command (R93). Bytes after it are not read (log entry 14). -/
def fetchCommand (p : Params) (bs : Bytes) : Fetched :=
  match decode (.command p) bs with
  | .ok (i, _) => .run i
  | .error e => .refuse (.undecodable e)

/-- The record at the cursor of `d` (R130), or passthrough (R131), or nothing while it is not buffered. -/
def fetchStep (d : Dir) (s : State) : Fetched :=
  if s.conn.disabled then .stay (passthrough d s).2
  else
    match fetchRecord d s with
    | none => .stay s
    | some bs =>
      match decode (.record d (s.peer d).hsState) bs with
      | .ok (i, _) => .run i
      | .error _ => .stay s

/-- A handshake message, as the loop of R160 reads it. -/
def fetchMessage (d : Dir) (bs : Bytes) (s : State) : Fetched :=
  match bs with
  | [] => .stay s
  | _ :: _ =>
    match decode (.message d) bs with
    | .ok (i, _) => .run i
    | .error e => .stay (raiseUndecodable d (messageError e) s)

/-- An extension or a list entry, as the loops of R171 and R183 read it. -/
def fetchHelloPart (c : Context) (bs : Bytes) (s : State) : Fetched :=
  match bs with
  | [] => .stay s
  | _ :: _ =>
    match decode c bs with
    | .ok (i, _) => .run i
    | .error _ => .stay (raiseUndecodable .clientToServer .chMalformed s)

/-- What a step does with the request `r`, which is no longer pending in `s`. -/
def fetch (r : Request) (s : State) : Fetched :=
  match r with
  | .command p bs => fetchCommand p bs
  | .record d => fetchStep d s
  | .message d bs => fetchMessage d bs s
  | .extension bs => fetchHelloPart .extension bs s
  | .sniEntry bs => fetchHelloPart .sniEntry bs s

/-- The bytes of the instruction that the decoder reads from a word of the opcode table, without the zeros after it. -/
def wordBytes (nbits w : Nat) : Bytes :=
  match decode (tableContext nbits w) (tableBytes nbits w) with
  | .ok (_, rest) => (tableBytes nbits w).take ((tableBytes nbits w).length - rest.length)
  | .error _ => tableBytes nbits w

/-- `s` with the bytes `bs` put where the next step reads an instruction of the format `c`: a record in its stream, anything else in
its request. -/
def placeBytes (c : Context) (bs : Bytes) (s : State) : State :=
  match c with
  | .command p => { s with pending := .command p bs :: s.pending }
  | .record d _ => { s.setStream d { buf := bs, cursor := 0 } with pending := .record d :: s.pending }
  | .message d => { s with pending := .message d bs :: s.pending }
  | .extension => { s with pending := .extension bs :: s.pending }
  | .sniEntry => { s with pending := .sniEntry bs :: s.pending }

end Sys2Proof.Machine
end

