-- ==== Sys2Proof/Machine/Step.lean ====
section
/-! DEFINITION. One step of the engine: the next request, one atomic transition (R3). -/
namespace Sys2Proof.Machine

/-- One step: take the first request and run the instruction it holds. With no request nothing happens (R268). -/
def step (s : State) : Host.Outcome State Fault Refusal :=
  match s.pending with
  | [] => .next s
  | r :: rest =>
    match fetch r { s with pending := rest } with
    | .run i => exec i { s with pending := rest }
    | .stay s' => .next s'
    | .refuse x => .refused x

/-- `s` with the instruction of a table word put where the next step reads it. -/
def State.withFetchWord (s : State) (nbits w : Nat) : State :=
  placeBytes (tableContext nbits w) (wordBytes nbits w) s

end Sys2Proof.Machine
end

