-- ==== Sys2Proof/Safety.lean ====
section
/-! DEFINITION. What claims about the engine are stated in: an engine that still decrypts, what a step must keep, and the invariant of
the engine's registers. -/
namespace Sys2Proof.Machine

/-- The premise of a claim about a decrypted connection (R265). -/
def State.running (s : State) : Prop :=
  s.conn.disabled = false

/-- The engine decrypts and a record with this payload is buffered in direction `d` (R130): the record is dispatched. -/
def State.dispatches (s : State) (d : Dir) (payload : Bytes) : Prop :=
  s.conn.disabled = false ∧ 5 + payload.length ≤ s.avail d

/-- The events that surfacing direction `d` adds (R118, R131, R264). -/
def rawEvents (s : State) (d : Dir) : List Event :=
  if 0 < s.avail d then [.raw d (s.unconsumed d)] else []

/-- `t` is `s` disabled by an error of direction `d` (R262, R264): the error registers, the `Error` event, every unconsumed byte of
both directions surfaced, direction `d` first; nothing else changed. -/
structure DisabledBy (s t : State) (d : Dir) (kind detail : Byte) : Prop where
  conn : t.conn = { s.conn with disabled := true, errorKind := kind, errorDetail := detail, errorDir := d }
  hsState : ∀ e, (t.peer e).hsState = (s.peer e).hsState
  keys : ∀ e, (t.peer e).keys = (s.peer e).keys
  buf : ∀ e, (t.peer e).stream.buf = (s.peer e).stream.buf
  cursor : ∀ e, (t.peer e).stream.cursor = (s.peer e).stream.cursor + s.avail e
  events : t.response.events = s.response.events ++ .error d kind detail :: (rawEvents s d ++ rawEvents s d.other)
  result : t.response.result = s.response.result
  dump : t.response.dump = s.response.dump
  params : t.params = s.params
  work : t.work = s.work
  pending : t.pending = s.pending

/-- `i` is a record of type `ty` that this state hands to the decryption engine (R136, R148, R150). -/
def State.decrypts (s : State) (i : Instr) (d : Dir) (ty vmaj vmin : Byte) (payload : Bytes) : Prop :=
  s.dispatches d payload ∧
  ((i = .appData d vmaj vmin payload ∧ ty = 23 ∧ s.conn.ready = true ∧ s.conn.keyScheduleDone = true) ∨
   (i = .alertProtected d vmaj vmin payload ∧ ty = 21) ∨
   (i = .handshakeProtected d vmaj vmin payload ∧ ty = 22))

/-- What a record of `n` bytes leaves whose body has been decrypted and carries its MAC (R230 steps 4 and 5, R151, R130). -/
def State.delivered (s : State) (d : Dir) (ty : Byte) (frag : Bytes) (n : Nat) : State :=
  State.advance
    (State.emit
      (State.setHs (s.setKeys d { (s.peer d).keys with seq := (s.peer d).keys.seq + 1 }) d
        (if ty = 22 ∧ (s.peer d).hsState = .changeCipherSpecSeen then .finished else (s.peer d).hsState))
      (.decrypted d ty frag))
    d n

/-- Steps 3 to 5 of R230 on the body of a record of `n` bytes, from `s` to `t`: too short for a MAC (R245), a MAC that differs
(R244), a counter at its end (R240), or delivered. -/
def MacOutcome (s t : State) (d : Dir) (ty vmaj vmin : Byte) (body : Bytes) (n : Nat) : Prop :=
  if body.length < s.suite.macLen then DisabledBy s t d 0x06 0x01
  else if recordMac (versionClass s.conn.version) s.params.macMode s.suite (s.peer d).keys.macKey (s.peer d).keys.seq ty vmaj
      vmin (body.take (body.length - s.suite.macLen)) ≠ body.drop (body.length - s.suite.macLen) then
    DisabledBy s t d 0x06 0x02
  else if (s.peer d).keys.seq.toNat = 2 ^ 64 - 1 then DisabledBy s t d 0x01 0x0C
  else t = s.delivered d ty (body.take (body.length - s.suite.macLen)) n

/-- The bytes of a sequence of handshake messages, each a type and a body (R74). -/
def messagesBytes (ms : List (Byte × Bytes)) : Bytes :=
  ms.flatMap fun m => encodeMessage m.1 m.2

/-- Messages that the engine skips, each with a body its length field can tell (R167, R168). -/
def SkippedMessages (ms : List (Byte × Bytes)) : Prop :=
  ∀ m ∈ ms, m.1 ≠ 1 ∧ m.1 ≠ 2 ∧ m.1 ≠ 4 ∧ m.1 ≠ 16 ∧ m.2.length < 16777216

/-- The state with the events `es` after those it has. -/
def State.report (s : State) (es : List Event) : State :=
  { s with response := { s.response with events := s.response.events ++ es } }

/-- The bytes of a server_name list, each entry a type and a name (R78). -/
def sniBytes (ns : List (Byte × Bytes)) : Bytes :=
  ns.flatMap fun n => encodeSniEntry n.1 n.2

/-- A whole ChangeCipherSpec record stands at the head of stream `d`: what a held ChangeCipherSpec leaves there (R146). -/
def State.holdsCcs (s : State) (d : Dir) : Prop :=
  ∃ r, fetchRecord d s = some r ∧ byteAt r 0 = 20

/-- The registers of a direction's bank are at their reset values (R290). -/
def State.unkeyed (s : State) : Prop :=
  s.peer0.keys = resetKeys ∧ s.peer1.keys = resetKeys ∧ s.conn.masterSecret = []

/-- What a derived key schedule leaves (R203, R205, R208, R210): a version with a key schedule, a 48-byte master secret, stream states
for a stream suite. -/
def State.keyed (s : State) : Prop :=
  s.conn.ready = true ∧
  versionClass s.conn.version ≠ .tls12 ∧ versionClass s.conn.version ≠ .other ∧
  s.conn.masterSecret.length = 48 ∧
  (s.suite.family = .stream → ∀ d, (s.peer d).keys.streamState.isSome = true)

/-- The invariant of the engine's registers. -/
structure State.Inv (s : State) : Prop where
  /-- R32: the cursor never passes the end of the buffer. -/
  cursor_le : ∀ d, (s.peer d).stream.cursor ≤ (s.peer d).stream.buf.length
  /-- R20: the width of the two randoms. -/
  random_len : s.conn.clientRandom.length = 32 ∧ s.conn.serverRandom.length = 32
  /-- R21: `conn.premaster_secret` holds the 48 decrypted bytes when its flag is set. -/
  premaster_len : s.conn.premasterSet = true → s.conn.premasterSecret.length = 48
  /-- R204, R173: parameters of an RSA suite are there when the server random is. -/
  suite_set : s.conn.serverRandomSet = true → ∃ l, s.conn.params = some l ∧ l.suite.keyExchangeIsRsa = true
  /-- R170, R172: a hello that set its random moved its direction out of `Start`. -/
  hello_seen : (s.conn.clientRandomSet = true → s.peer0.hsState ≠ .start) ∧
    (s.conn.serverRandomSet = true → s.peer1.hsState ≠ .start)
  /-- R145, R203: derived keys. -/
  keys_set : s.conn.keyScheduleDone = true → s.keyed
  /-- R215, R216: no key material before the key schedule. -/
  keys_unset : s.conn.keyScheduleDone = false → s.unkeyed
  /-- R260, R262: the error registers tell whether an error occurred. -/
  error_regs : if s.conn.disabled then s.conn.errorKind ≠ 0 else
    s.conn.errorKind = 0 ∧ s.conn.errorDetail = 0 ∧ s.conn.errorDir = .clientToServer
  /-- R152: a direction past its ChangeCipherSpec has keys, or its ChangeCipherSpec is still held, or nothing more is read. -/
  ccs_keys : ∀ d, (s.peer d).hsState.reachedCcs = true →
    s.conn.keyScheduleDone = true ∨ s.conn.disabled = true ∨ s.conn.closed = true ∨ s.holdsCcs d
  /-- R118: a closed engine has nothing left to read. -/
  closed_empty : s.conn.closed = true → ∀ d, s.avail d = 0

end Sys2Proof.Machine
end

