-- ==== Sys2Proof/Certificates/Slice0/Obligations.lean ====
section
/-! DEFINITION. The statements for the provers: what the numbered rules of spec/ say the engine does. -/
open Sys2Proof Sys2Proof.Machine

/-! ### Encodings (30_encoding) -/

/-- R70, R74, R77, R78, R93: an instruction read back from its encoding, whatever follows it. Rests on the spec's own decisions
D2, D7, D11 (92_eei_decisions), on what R75, R78 take from general knowledge. -/
def Obligations.DecodeReadsBackEveryEncoding : Prop :=
  ∀ (c : Context) (i : Instr) (rest : Bytes), i.wellFormed = true → c.admits i = true →
    decode c (encode i ++ rest) = .ok (i, rest)

/-- R92: the bytes a decoded instruction was read from are its encoding, so no byte value is read twice or dropped. Rests on
the spec's own decisions D2, D11 (92_eei_decisions), on what R78 takes from general knowledge, on what R92 derives. -/
def Obligations.DecodedBytesAreTheEncoding : Prop :=
  ∀ (c : Context) (bs rest : Bytes) (i : Instr), decode c bs = .ok (i, rest) →
    bs = encode i ++ rest ∧ c.admits i = true ∧
      ((∀ p, c = .command p → p.wellFormed = true) → i.wellFormed = true)

/-- R70, R74, R75, R77, R78, R93: words written out from the formats. Rests on the spec's own decisions D2, D7, D11, D28
(92_eei_decisions), on what R75, R78 take from general knowledge. -/
def Obligations.WordsOfTheSpecDecode : Prop :=
  (∀ h, decode (.record .serverToClient h) [0x14, 0x03, 0x01, 0x00, 0x01, 0x01] =
    .ok (.ccs .serverToClient 0x03 0x01 [0x01], [])) ∧
  decode (.record .serverToClient .sawHello) [0x15, 0x03, 0x01, 0x00, 0x02, 0x02, 0x28] =
    .ok (.alertPlain .serverToClient 0x03 0x01 [0x02, 0x28], []) ∧
  decode (.record .serverToClient .finished) [0x15, 0x03, 0x01, 0x00, 0x02, 0x02, 0x28] =
    .ok (.alertProtected .serverToClient 0x03 0x01 [0x02, 0x28], []) ∧
  (∀ h, decode (.record .clientToServer h) [0x80, 0x03, 0x01, 0x00, 0x00] =
    .ok (.recordIllegal .clientToServer 0x80 0x03 0x01 [], [])) ∧
  decode (.message .serverToClient) [0x0b, 0x00, 0x00, 0x03, 0x00, 0x00, 0x00, 0x0e] =
    .ok (.hsCertificate .serverToClient [0x00, 0x00, 0x00], [0x0e]) ∧
  decode .extension [0x00, 0x23, 0x00, 0x02, 0xaa, 0xbb] = .ok (.extSessionTicket [0xaa, 0xbb], []) ∧
  decode .sniEntry [0x00, 0x00, 0x02, 0x61, 0x62] = .ok (.sniHostName [0x61, 0x62], []) ∧
  (∀ p, decode (.command p) [0x02, 0x00, 0x00, 0x00, 0x00, 0x03, 0x16, 0x03, 0x01] =
    .ok (.feed 0x00 [0x16, 0x03, 0x01], []))

/-- R95: the bytes of each of the seven events; and those bytes, and then anything, tell the event, for byte strings whose
length its 4-byte prefix can hold. Rests on the spec's own decision D46 (92_eei_decisions). -/
def Obligations.EventBytesTellTheEvent : Prop :=
  (∀ (d : Dir) (x : Byte) (bs : Bytes), bs.length < 4294967296 →
    let dir : Byte := if d = .clientToServer then 0x00 else 0x01
    (Event.hsMsg d x bs).bytes = [0x01, dir, x] ++ encBe 4 bs.length ++ bs ∧
    (Event.plainAlert d bs).bytes = [0x04, dir] ++ encBe 4 bs.length ++ bs ∧
    (Event.decrypted d x bs).bytes = [0x05, dir, x] ++ encBe 4 bs.length ++ bs ∧
    (Event.raw d bs).bytes = [0x06, dir] ++ encBe 4 bs.length ++ bs) ∧
  (∀ (d : Dir) (kind detail : Byte),
    let dir : Byte := if d = .clientToServer then 0x00 else 0x01
    (Event.ccs d).bytes = [0x02, dir] ∧ (Event.keysDerived d).bytes = [0x03, dir] ∧
    (Event.error d kind detail).bytes = [0x07, dir, kind, detail]) ∧
  ∀ (e e' : Event) (r r' : Bytes),
    (∀ (f : Event), f = e ∨ f = e' → f.bytes.length < 4294967296) →
    e.bytes ++ r = e'.bytes ++ r' → e = e' ∧ r = r'

/-! ### Streams (20_memory) -/

/-- R50, R51, R52, R53: the stream primitives, each on both sides of `Avail`. That `Consume` past it is a fault, under that
name, is the model's reading of R52 (log entry 11). -/
def Obligations.StreamPrimitives : Prop :=
  ∀ (s : State) (d : Dir),
    s.avail d = (s.peer d).stream.buf.length - (s.peer d).stream.cursor ∧
    (∀ n, n ≤ s.avail d → s.peek d n = some (((s.peer d).stream.buf.drop (s.peer d).stream.cursor).take n)) ∧
    (∀ n, s.avail d < n → s.peek d n = none) ∧
    (∀ n, n ≤ s.avail d → s.consume d n =
      .next (s.setStream d { (s.peer d).stream with cursor := (s.peer d).stream.cursor + n })) ∧
    (∀ n, s.avail d < n → s.consume d n = .fault .consumeBeyondAvail) ∧
    (∀ bs, s.append d bs = s.setStream d { (s.peer d).stream with buf := (s.peer d).stream.buf ++ bs }) ∧
    s.append d [] = s

/-! ### Steps -/

/-- A step runs the instruction of the first request, on the state without that request. The request queue is the model's (log
entries 2, 5), and so is what a message, an extension or a list entry does on a closed engine (log entry 27). So is it that
bytes after the instruction, in a request that holds more, are not read: no rule says so (log entry 14 for a command, log entry
5 for a message, an extension or a list entry). Rests on the spec's own decisions D1, D2, D11 (92_eei_decisions), on what R78
takes from general knowledge. -/
def Obligations.StepRunsTheRequestedInstruction : Prop :=
  ∀ (s : State) (bs x : Bytes) (i : Instr) (rest : List Request),
    (∀ p, s.pending = .command p bs :: rest → decode (.command p) bs = .ok (i, x) →
      step s = exec i { s with pending := rest }) ∧
    (∀ d, s.pending = .message d bs :: rest → decode (.message d) bs = .ok (i, x) →
      step s = exec i { s with pending := rest }) ∧
    (s.pending = .extension bs :: rest → decode .extension bs = .ok (i, x) →
      step s = exec i { s with pending := rest }) ∧
    (s.pending = .sniEntry bs :: rest → decode .sniEntry bs = .ok (i, x) →
      step s = exec i { s with pending := rest })

/-- R130: a step of a direction, requested or in a drain, runs the record at its cursor; a record that is not buffered changes
nothing; R131: a disabled engine surfaces what is left. A requested record, on a closed engine too, is the model's (log entries
5, 27). -/
def Obligations.StepRunsTheRecordAtTheCursor : Prop :=
  ∀ (s : State) (d : Dir),
    (∀ i x, s.running → decode (.record d (s.peer d).hsState) (s.unconsumed d) = .ok (i, x) →
      stateOf (stepDir d s) = exec i s ∧
      ∀ rest, s.pending = .record d :: rest → step s = exec i { s with pending := rest }) ∧
    (∀ e, s.running → decode (.record d (s.peer d).hsState) (s.unconsumed d) = .error e →
      stepDir d s = .next (false, s) ∧
      ∀ rest, s.pending = .record d :: rest → step s = .next { s with pending := rest }) ∧
    (∀ rest, s.conn.disabled = true → s.pending = .record d :: rest →
      step s = .next (State.surface { s with pending := rest } d))

/-- R131: a step of a disabled engine. -/
def Obligations.DisabledStepSurfacesRaw : Prop :=
  ∀ (s : State) (d : Dir), s.conn.disabled = true →
    (s.avail d = 0 → stepDir d s = .next (false, s)) ∧
    (0 < s.avail d → stepDir d s = .next (true, (s.report [.raw d (s.unconsumed d)]).advance d (s.avail d)))

/-- R160, R164: the message loop is the meanings of its messages, one after the other. A message run alone, on a closed engine
too, is the model's (log entries 5, 27). Rests on the spec's own decisions D10, D46 (92_eei_decisions), on what R164 takes from
general knowledge. -/
def Obligations.HandshakePayloadRunsItsMessages : Prop :=
  ∀ (s : State) (d : Dir), s.running →
    handshakePlain d [] s = (.done, s) ∧
    (∀ payload e, payload ≠ [] → decode (.message d) payload = .error e →
      handshakePlain d payload s = (.fatal (messageError e), s)) ∧
    (∀ payload i rest t, decode (.message d) payload = .ok (i, rest) → exec i s = .next t →
      (t.running → handshakePlain d payload s = handshakePlain d rest t) ∧
      (¬ t.running → ∃ e u, handshakePlain d payload s = (.fatal e, u) ∧ t = u.disable d e))

/-- R171, R183: the extension loop and the list loop are the meanings of their items, one after the other; an item that is not
whole raises `CH_MALFORMED`. An item run alone, on a closed engine too, is the model's (log entries 5, 27). Rests on the spec's
own decision D11 (92_eei_decisions), on what R183 takes from general knowledge. -/
def Obligations.HelloLoopsRunTheirItems : Prop :=
  ∀ (s : State), s.running →
    extensionsLoop 0 [] s = (.done, s) ∧ sniLoop 0 [] s = (.done, s) ∧
    (∀ ext e, ext ≠ [] → decode .extension ext = .error e → extensionsLoop ext.length ext s = (.fatal .chMalformed, s)) ∧
    (∀ list e, list ≠ [] → decode .sniEntry list = .error e → sniLoop list.length list s = (.fatal .chMalformed, s)) ∧
    (∀ ext i rest t, decode .extension ext = .ok (i, rest) → exec i s = .next t →
      (t.running → extensionsLoop ext.length ext s = extensionsLoop rest.length rest t) ∧
      (¬ t.running → ∃ u, extensionsLoop ext.length ext s = (.fatal .chMalformed, u) ∧
        t = u.disable .clientToServer .chMalformed)) ∧
    (∀ list i rest t, decode .sniEntry list = .ok (i, rest) → exec i s = .next t →
      sniLoop list.length list s = sniLoop rest.length rest t)

/-! ### Host commands (40_host_interface, 70_reset_and_hazards) -/

/-- R290, R111: CREATE answers OK and every register is at its reset value. That it does so on a closed engine too is the
model's reading of R25 against R111 and R119 (log entry 16); that what is pending at the host port stays is the model's choice
(log entry 2). Rests on the spec's own decision D40 (92_eei_decisions). -/
def Obligations.CreateResetsEveryRegister : Prop :=
  ∀ (p : Params) (s : State), ∃ t, exec (.create p) s = .next t ∧
    t.params = p ∧ t.pending = s.pending ∧
    t.response.result = .ok ∧ t.response.events = [] ∧
    t.conn.version = 0 ∧ t.conn.cipherSuite = 0 ∧ t.conn.params = none ∧ t.conn.compression = 0 ∧
    t.conn.clientRandom = List.replicate 32 0 ∧ t.conn.serverRandom = List.replicate 32 0 ∧
    t.conn.clientSessionId = [] ∧ t.conn.serverSessionId = [] ∧ t.conn.clientTicket = [] ∧ t.conn.serverTicket = [] ∧
    t.conn.sni = [] ∧ t.conn.premasterSecret = [] ∧ t.conn.masterSecret = [] ∧
    t.conn.errorKind = 0 ∧ t.conn.errorDetail = 0 ∧ t.conn.errorDir = .clientToServer ∧
    t.conn.clientRandomSet = false ∧ t.conn.serverRandomSet = false ∧ t.conn.premasterSet = false ∧
    t.conn.keyScheduleDone = false ∧ t.conn.disabled = false ∧ t.conn.closed = false ∧
    ∀ d, (t.peer d).hsState = .start ∧ (t.peer d).stream.buf = [] ∧ (t.peer d).stream.cursor = 0 ∧
      (t.peer d).keys.macKey = [] ∧ (t.peer d).keys.encKey = [] ∧ (t.peer d).keys.iv = [] ∧
      (t.peer d).keys.seq = 0 ∧ (t.peer d).keys.streamState = none

/-- R119: the refused commands, which write no register. Rests on the spec's own decision D2 (92_eei_decisions). -/
def Obligations.RefusedCommandsWriteNothing : Prop :=
  ∀ (s : State),
    (∀ (p : Params) (op : Byte) (x : Bytes), op ≠ 1 → op ≠ 2 → op ≠ 3 → op ≠ 4 →
      decode (.command p) (op :: x) = .ok (.cmdIllegal op, x) ∧
      exec (.cmdIllegal op) s = .next { s with response := { result := .refused, events := [], dump := [] } }) ∧
    (∀ (d : Byte) (x : Bytes), (1 < d.toNat ∨ s.conn.closed = true) →
      exec (.feed d x) s = .next { s with response := { result := .refused, events := [], dump := [] } }) ∧
    (s.conn.closed = true →
      exec .finish s = .next { s with response := { result := .refused, events := [], dump := [] } })

/-- R112: a FEED appends to its direction, drains, and answers OK, FATAL or DISABLED. Rests on what R112 derives. -/
def Obligations.FeedAppendsDrainsAndAnswers : Prop :=
  ∀ (s : State) (d : Dir) (b : Byte) (x : Bytes), b.toNat = d.index → s.conn.closed = false →
    ∃ u, drain d ({ s with response := { result := .ok, events := [], dump := [] } }.append d x) = .next u ∧
      exec (.feed b x) s = .next
        { u with response := { u.response with
            result := if s.conn.disabled then .disabled else if u.conn.disabled then .fatal else .ok } } ∧
      (u.peer d).stream.buf = (s.peer d).stream.buf ++ x ∧
      (u.peer d.other).stream.buf = (s.peer d.other).stream.buf ∧
      u.params = s.params ∧ u.pending = s.pending ∧ u.conn.closed = false

/-- R113: the drain and its inner loop are the loops of the spec, without a bound. Rests on the spec's own decision D3
(92_eei_decisions). -/
def Obligations.DrainIsTheLoopOfTheSpec : Prop :=
  (∀ (e : Dir) (s : State), ∃ p t, stepDir e s = .next (p, t) ∧
    (p = false → runDir e s = .next (false, t)) ∧
    (p = true → ∃ q u, runDir e t = .next (q, u) ∧ runDir e s = .next (true, u))) ∧
  (∀ (d : Dir) (s : State), ∃ pa s1 pb s2, runDir d s = .next (pa, s1) ∧ runDir d.other s1 = .next (pb, s2) ∧
    (pa = false ∧ pb = false → drain d s = .next s2) ∧
    (¬ (pa = false ∧ pb = false) → drain d s = drain d s2))

/-- R114, R130, R131: a step makes progress exactly when it consumes at least one byte of its direction; no step appends. Rests
on what R114 derives. -/
def Obligations.ProgressConsumesAByte : Prop :=
  ∀ (d : Dir) (s t : State) (p : Bool), stepDir d s = .next (p, t) →
    (p = true ↔ t.avail d < s.avail d) ∧ (∀ e, t.avail e ≤ s.avail e) ∧
    (∀ e, (t.peer e).stream.buf = (s.peer e).stream.buf)

/-- R112, R130: a FEED that completes no record of a running engine only appends. Rests on what R112 derives. -/
def Obligations.FeedOfPartialRecordOnlyAppends : Prop :=
  ∀ (s : State) (d : Dir) (b : Byte) (x : Bytes), b.toNat = d.index → s.conn.closed = false → s.running →
    (∀ e h, decode (.record e h) ((s.append d x).unconsumed e) = .error .needMoreData) →
    exec (.feed b x) s =
      .next ({ s with response := { result := .ok, events := [], dump := [] } }.append d x)

/-- R120, R112, R113: a FEED to a disabled engine appends and surfaces, the fed direction first and then what the other
direction had left. Rests on the spec's own decision D3 (92_eei_decisions), on what R112 derives. -/
def Obligations.FeedWhileDisabledSurfacesBytes : Prop :=
  ∀ (s : State) (d : Dir) (b : Byte) (x : Bytes), b.toNat = d.index → s.conn.closed = false → s.conn.disabled = true →
    (∀ e, (s.peer e).stream.cursor ≤ (s.peer e).stream.buf.length) →
    ∃ t, exec (.feed b x) s = .next t ∧
      t.response.result = .disabled ∧ t.response.dump = [] ∧
      t.response.events =
        (if s.unconsumed d ++ x = [] then [] else [.raw d (s.unconsumed d ++ x)]) ++ rawEvents s d.other ∧
      (t.peer d).stream = { buf := (s.peer d).stream.buf ++ x, cursor := (s.peer d).stream.buf.length + x.length } ∧
      (t.peer d.other).stream =
        { buf := (s.peer d.other).stream.buf, cursor := (s.peer d.other).stream.buf.length } ∧
      (∀ e, (t.peer e).hsState = (s.peer e).hsState ∧ (t.peer e).keys = (s.peer e).keys) ∧
      t.conn = s.conn ∧ t.params = s.params ∧ t.work = s.work ∧ t.pending = s.pending

/-- R116, R96: STATUS writes no register; the dump lists the registers in number order, a number in big-endian bytes, a byte
string after its 4-byte length; R27, R94: the codes of the handshake states and the results. The layout of a cursor, and of a
byte string of `2^32` bytes or more, is the model's (log entries 9, 10, 17), and so are the bytes of a number too large for its
width (log entry 26). Rests on the spec's own decisions D2, D37 (92_eei_decisions), on what R10 takes from general knowledge.
-/
def Obligations.StatusDumpsTheRegisters : Prop :=
  (∀ bs : Bytes, bs.length < 4294967296 → prefixed bs = encBe 4 bs.length ++ bs) ∧
  (∀ w n : Nat, encBe w n = (List.range w).map fun k => BitVec.ofNat 8 (n / 256 ^ (w - 1 - k))) ∧
  dirByte .clientToServer = 0x00 ∧ dirByte .serverToClient = 0x01 ∧
  ([.start, .sawHello, .changeCipherSpecSeen, .finished] : List HandshakeState).map HandshakeState.rank = [0, 1, 2, 3] ∧
  ([.ok, .fatal, .disabled, .refused] : List ResultCode).map ResultCode.code = [0x00, 0x01, 0x02, 0x03] ∧
  ∀ (s : State), ∃ dump, exec .status s = .next { s with response := { result := .ok, events := [], dump := dump } } ∧
    dump =
      encBe 2 s.conn.version.toNat ++ encBe 2 s.conn.cipherSuite.toNat ++
      (match s.conn.params with
        | some l => encBe 2 l.id.toNat
        | none => []) ++
      [s.conn.compression] ++ s.conn.clientRandom ++ s.conn.serverRandom ++
      ([s.conn.clientSessionId, s.conn.serverSessionId, s.conn.clientTicket, s.conn.serverTicket, s.conn.sni,
        s.conn.premasterSecret, s.conn.masterSecret].flatMap prefixed) ++
      [s.conn.errorKind, s.conn.errorDetail, dirByte s.conn.errorDir] ++
      ([s.conn.clientRandomSet, s.conn.serverRandomSet, s.conn.premasterSet, s.conn.keyScheduleDone, s.conn.disabled,
        s.conn.closed].map fun b => if b then 0x01 else 0x00) ++
      ([Dir.clientToServer, Dir.serverToClient].flatMap fun d =>
        BitVec.ofNat 8 (s.peer d).hsState.rank ::
          (prefixed (s.unconsumed d) ++ Config.cursorBytes (s.peer d).stream.cursor ++
           prefixed (s.peer d).keys.macKey ++ prefixed (s.peer d).keys.encKey ++ prefixed (s.peer d).keys.iv ++
           encBe 8 (s.peer d).keys.seq.toNat))

/-- R118: FINISH surfaces what is left and closes the engine. Rests on the spec's own decision D39 (92_eei_decisions). -/
def Obligations.FinishSurfacesAndCloses : Prop :=
  ∀ (s : State),
    (s.conn.closed = true →
      exec .finish s = .next { s with response := { result := .refused, events := [], dump := [] } }) ∧
    (s.conn.closed = false → ∃ t, exec .finish s = .next t ∧
      t.response.result = (if s.conn.disabled then .disabled else .ok) ∧ t.response.dump = [] ∧
      t.response.events = rawEvents s .clientToServer ++ rawEvents s .serverToClient ∧
      t.conn = { s.conn with closed := true } ∧
      (∀ d, t.peer d = { s.peer d with
        stream := { (s.peer d).stream with cursor := (s.peer d).stream.cursor + s.avail d } }) ∧
      t.params = s.params ∧ t.work = s.work ∧ t.pending = s.pending)

/-! ### The whole engine -/

/-- R32: every instruction completes, and no cursor passes the end of its buffer. -/
def Obligations.NoInstructionConsumesPastTheBuffer : Prop :=
  ∀ (i : Instr) (s : State), (∀ d, (s.peer d).stream.cursor ≤ (s.peer d).stream.buf.length) →
    ∃ t, exec i s = .next t ∧ ∀ d, (t.peer d).stream.cursor ≤ (t.peer d).stream.buf.length

/-- The invariant of the engine's registers is kept by every step. Rests on the spec's own decisions D39, D40
(92_eei_decisions), on what R152, R204 derive. -/
def Obligations.StepKeepsTheInvariant : Prop :=
  ∀ (s t : State), s.Inv → step s = .next t → t.Inv

/-- A new engine, and the engine after reset, satisfies the invariant. The parameters of reset are the model's (log entry 3).
Rests on the spec's own decision D40 (92_eei_decisions). -/
def Obligations.NewEngineHasTheInvariant : Prop :=
  (∀ (p : Params) (rest : List Request), (State.fresh p rest).Inv) ∧ State.reset.Inv

/-- R22, R25, R28: handshake states and flags only go up; only CREATE makes a new engine. Rests on the spec's own decisions
D39, D40 (92_eei_decisions). -/
def Obligations.HandshakeStatesAndFlagsNeverGoBack : Prop :=
  ∀ (i : Instr) (s t : State), (∀ p, i ≠ .create p) → exec i s = .next t →
    (∀ d, (s.peer d).hsState.rank ≤ (t.peer d).hsState.rank) ∧
    (s.conn.clientRandomSet = true → t.conn.clientRandomSet = true) ∧
    (s.conn.serverRandomSet = true → t.conn.serverRandomSet = true) ∧
    (s.conn.premasterSet = true → t.conn.premasterSet = true) ∧
    (s.conn.keyScheduleDone = true → t.conn.keyScheduleDone = true) ∧
    (s.conn.disabled = true → t.conn.disabled = true) ∧
    (s.conn.closed = true → t.conn.closed = true) ∧
    t.params = s.params

/-- R266, R131: once disabled, no register but the streams and `conn.closed` changes, and every event is a `Raw` one. Rests on
what R266 derives. -/
def Obligations.DisabledEngineInterpretsNothing : Prop :=
  ∀ (i : Instr) (s t : State), (∀ p, i ≠ .create p) → s.conn.disabled = true → exec i s = .next t →
    t.conn = { s.conn with closed := t.conn.closed } ∧ t.work = s.work ∧
    (∀ d, (t.peer d).hsState = (s.peer d).hsState ∧ (t.peer d).keys = (s.peer d).keys) ∧
    ∀ e ∈ t.response.events, e ∈ s.response.events ∨ ∃ d bs, e = .raw d bs

/-- R216, R29: the MAC and encryption keys change only when `key_schedule_done` goes from 0 to 1, and the master secret with
them. -/
def Obligations.KeysAreWrittenOnce : Prop :=
  ∀ (i : Instr) (s t : State), (∀ p, i ≠ .create p) → exec i s = .next t →
    (s.conn.masterSecret ≠ t.conn.masterSecret ∨
      ∃ d, (s.peer d).keys.macKey ≠ (t.peer d).keys.macKey ∨ (s.peer d).keys.encKey ≠ (t.peer d).keys.encKey) →
    s.conn.keyScheduleDone = false ∧ t.conn.keyScheduleDone = true

/-- R231: decrypting a record of `d` neither reads nor writes the other direction's bank. -/
def Obligations.DecryptIgnoresTheOtherDirection : Prop :=
  ∀ (d : Dir) (ty vmaj vmin : Byte) (payload : Bytes) (s : State) (q : Peer),
    decrypt d ty vmaj vmin payload (s.setPeer d.other q) =
      ((decrypt d ty vmaj vmin payload s).1, (decrypt d ty vmaj vmin payload s).2.setPeer d.other q)

/-! ### Errors (60_exceptions) -/

/-- R262, R264: what disabling does; R260, R263: the codes of the errors. Rests on the spec's own decisions D31, D32
(92_eei_decisions). -/
def Obligations.DisableSavesTheErrorAndSurfacesEverything : Prop :=
  (∀ (s : State) (d : Dir) (e : FatalError),
    DisabledBy s (s.disable d e) d e.kind.code e.detail ∧ ∀ f, (s.disable d e).avail f = 0) ∧
  ([.unknownContentType, .hsTruncatedHeader, .hsLengthOverrun, .chMalformed, .shMalformed, .ckeMalformed, .nstMalformed,
    .ccsWithoutKeys, .appdataWithoutKeys, .wrongDirection, .duplicateMessage, .seqExhausted, .unknownSuite, .nonRsaSuite,
    .tls12Version, .otherVersion, .rsaFail, .badPremasterLength, .badCiphertextLength, .padOverrun, .padByteMismatch,
    .recordTooShort, .macMismatch] : List FatalError).map (fun e => (e.kind.code, e.detail)) =
  [(1, 1), (1, 2), (1, 3), (1, 4), (1, 5), (1, 6), (1, 7), (1, 8), (1, 9), (1, 10), (1, 11), (1, 12), (2, 1), (2, 2), (3, 1),
    (3, 2), (4, 1), (4, 2), (5, 1), (5, 2), (5, 3), (6, 1), (6, 2)]

/-- R132: a whole record of an unknown type disables; while it is not all buffered, nothing happens. -/
def Obligations.IllegalRecordDisables : Prop :=
  ∀ (d : Dir) (ty vmaj vmin : Byte) (payload : Bytes) (s : State),
    (Instr.recordIllegal d ty vmaj vmin payload).wellFormed = true →
    (s.dispatches d payload →
      ∃ t, exec (.recordIllegal d ty vmaj vmin payload) s = .next t ∧ DisabledBy s t d 0x01 0x01) ∧
    (s.running → s.avail d < 5 + payload.length → exec (.recordIllegal d ty vmaj vmin payload) s = .next s)

/-- R130, R261: a record that is not buffered writes nothing. -/
def Obligations.UnbufferedRecordChangesNothing : Prop :=
  ∀ (d : Dir) (ty vmaj vmin : Byte) (payload : Bytes) (s : State) (i : Instr),
    i = .ccs d vmaj vmin payload ∨ i = .alertPlain d vmaj vmin payload ∨ i = .alertProtected d vmaj vmin payload ∨
      i = .handshakePlain d vmaj vmin payload ∨ i = .handshakeProtected d vmaj vmin payload ∨
      i = .appData d vmaj vmin payload ∨ i = .recordIllegal d ty vmaj vmin payload →
    s.running → s.avail d < 5 + payload.length → exec i s = .next s

/-! ### Record layer (41_record_layer) -/

/-- R145, R146: a ChangeCipherSpec before readiness advances the state, and waits, or fails when the other direction has
reached its own. Rests on the spec's own decision D4 (92_eei_decisions). -/
def Obligations.EarlyCcsWaitsOrFails : Prop :=
  ∀ (d : Dir) (vmaj vmin : Byte) (payload : Bytes) (s : State), s.dispatches d payload → s.conn.ready = false →
    ((s.peer d.other).hsState.reachedCcs = false →
      exec (.ccs d vmaj vmin payload) s = .next (s.setHs d (hsMax (s.peer d).hsState .changeCipherSpecSeen))) ∧
    ((s.peer d.other).hsState.reachedCcs = true →
      ∃ t, exec (.ccs d vmaj vmin payload) s = .next t ∧
        DisabledBy (s.setHs d (hsMax (s.peer d).hsState .changeCipherSpecSeen)) t d 0x01 0x08)

/-- R145, R140: a ChangeCipherSpec after the key schedule has run. Rests on the spec's own decision D5 (92_eei_decisions). -/
def Obligations.CcsAfterTheKeysIsConsumed : Prop :=
  ∀ (d : Dir) (vmaj vmin : Byte) (payload : Bytes) (s : State), s.dispatches d payload → s.conn.ready = true →
    s.conn.keyScheduleDone = true →
    ∃ t, exec (.ccs d vmaj vmin payload) s = .next t ∧
      t.response = { s.response with events := s.response.events ++ [.ccs d] } ∧
      t.conn = s.conn ∧ t.peer d.other = s.peer d.other ∧ (t.peer d).keys = (s.peer d).keys ∧
      (t.peer d).stream = { (s.peer d).stream with cursor := (s.peer d).stream.cursor + (5 + payload.length) } ∧
      (t.peer d).hsState =
        (if (s.peer d).hsState = .finished then .finished else .changeCipherSpecSeen) ∧
      t.params = s.params ∧ t.work = s.work ∧ t.pending = s.pending

/-- R145, R203, R208, R211, R212: the first ChangeCipherSpec that finds the engine ready derives the keys; R84: the class of
every version. Rests on the spec's own decisions D17, D18, D34 (92_eei_decisions), on what R84, R211 take from general
knowledge, on what R212 derives. -/
def Obligations.FirstReadyCcsDerivesTheKeys : Prop :=
  (versionClass 0x0300 = .sslv3 ∧ versionClass 0x0301 = .tls10 ∧ versionClass 0x0302 = .tls11 ∧
    versionClass 0x0303 = .tls12 ∧
    ∀ v : BitVec 16, v ≠ 0x0300 → v ≠ 0x0301 → v ≠ 0x0302 → v ≠ 0x0303 → versionClass v = .other) ∧
  ∀ (d : Dir) (vmaj vmin : Byte) (payload : Bytes) (s : State) (l : LoadedSuite), s.dispatches d payload →
    s.conn.ready = true → s.conn.keyScheduleDone = false → s.conn.params = some l →
    (s.conn.version = 0x0300 ∨ s.conn.version = 0x0301 ∨ s.conn.version = 0x0302) →
    let cls := versionClass s.conn.version
    let m := l.suite.macLen
    let k := l.suite.keyLen
    let v := if l.suite.family = .block ∧ s.conn.version ≠ 0x0302 then l.suite.ivLen else 0
    let ms := masterSecret cls s.conn
    let kb := keyBlock cls s.params.seedMode s.conn ms (2 * m + 2 * k + 2 * v)
    let init (key : Bytes) : Option StreamState :=
      if l.suite.family = .stream then some (streamInit l.suite.cipher key) else none
    ∃ t, exec (.ccs d vmaj vmin payload) s = .next t ∧
      t.conn = { s.conn with masterSecret := ms, keyScheduleDone := true } ∧
      t.peer0.keys = { macKey := kb.take m, encKey := (kb.drop (2 * m)).take k, iv := (kb.drop (2 * m + 2 * k)).take v,
                       seq := 0, streamState := init ((kb.drop (2 * m)).take k) } ∧
      t.peer1.keys = { macKey := (kb.drop m).take m, encKey := (kb.drop (2 * m + k)).take k,
                       iv := (kb.drop (2 * m + 2 * k + v)).take v,
                       seq := 0, streamState := init ((kb.drop (2 * m + k)).take k) } ∧
      t.response = { s.response with events := s.response.events ++ [.keysDerived d, .ccs d] } ∧
      (t.peer d).hsState = hsMax (s.peer d).hsState .changeCipherSpecSeen ∧
      (t.peer d.other).hsState = (s.peer d.other).hsState ∧
      (t.peer d).stream = { (s.peer d).stream with cursor := (s.peer d).stream.cursor + (5 + payload.length) } ∧
      (t.peer d.other).stream = (s.peer d.other).stream ∧
      t.params = s.params ∧ t.work = s.work ∧ t.pending = s.pending

/-- R210, R215: the key schedule refuses TLS 1.2 and every version that is not SSLv3, TLS 1.0 or TLS 1.1. Rests on the spec's
own decisions D17, D43 (92_eei_decisions). -/
def Obligations.UnsupportedVersionDisables : Prop :=
  ∀ (d : Dir) (vmaj vmin : Byte) (payload : Bytes) (s : State), s.dispatches d payload → s.conn.ready = true →
    s.conn.keyScheduleDone = false →
    s.conn.version ≠ 0x0300 → s.conn.version ≠ 0x0301 → s.conn.version ≠ 0x0302 →
    ∃ t, exec (.ccs d vmaj vmin payload) s = .next t ∧
      DisabledBy (s.setHs d (hsMax (s.peer d).hsState .changeCipherSpecSeen)) t d 0x03
        (if s.conn.version = 0x0303 then 0x01 else 0x02)

/-- R204: the keys are a function of the connection registers and the parameters; the direction of the ChangeCipherSpec, the
handshake states and the streams do not enter. Rests on what R204 derives. -/
def Obligations.KeysIgnoreTheTriggeringDirection : Prop :=
  ∀ (a b a' b' : Byte) (x y : Bytes) (s s' t t' : State), s.dispatches .clientToServer x → s'.dispatches .serverToClient y →
    s.conn.ready = true → s.conn.keyScheduleDone = false → s'.conn = s.conn → s'.params = s.params →
    (s.conn.version = 0x0300 ∨ s.conn.version = 0x0301 ∨ s.conn.version = 0x0302) →
    exec (.ccs .clientToServer a b x) s = .next t → exec (.ccs .serverToClient a' b' y) s' = .next t' →
    t'.conn = t.conn ∧ ∀ e, (t'.peer e).keys = (t.peer e).keys

/-- R147: a plaintext alert is reported and consumed. Rests on the spec's own decision D30 (92_eei_decisions). -/
def Obligations.PlainAlertIsReported : Prop :=
  ∀ (d : Dir) (vmaj vmin : Byte) (payload : Bytes) (s : State), s.dispatches d payload →
    exec (.alertPlain d vmaj vmin payload) s =
      .next ((s.report [.plainAlert d payload]).advance d (5 + payload.length))

/-- R149: the readiness check of application data. Rests on the spec's own decision D26 (92_eei_decisions). -/
def Obligations.AppDataWaitsOrFailsBeforeTheKeys : Prop :=
  ∀ (d : Dir) (vmaj vmin : Byte) (payload : Bytes) (s : State), s.dispatches d payload →
    (s.conn.ready = false → (s.peer d.other).hsState.reachedCcs = false →
      exec (.appData d vmaj vmin payload) s = .next s) ∧
    (s.conn.ready = false → (s.peer d.other).hsState.reachedCcs = true →
      ∃ t, exec (.appData d vmaj vmin payload) s = .next t ∧ DisabledBy s t d 0x01 0x09) ∧
    (s.conn.ready = true → s.conn.keyScheduleDone = false → exec (.appData d vmaj vmin payload) s = .next s)

/-! ### Key schedule (43_key_schedule) -/

/-- R207: the PRF, the two halves of its secret sharing the middle byte of an odd length; R205, R206, R209: which expansion
each version uses, with which secret, label and seed; the SSLv3 master secret round by round. R10 defines XOR for equal
lengths; that it ends with the shorter of two unequal strings is the model's choice (log entry 26), which the two halves of the
PRF, of `n` bytes each, do not reach. Rests on the spec's own decisions D19, D20 (92_eei_decisions), on what R207, R209 take
from general knowledge. -/
def Obligations.MasterSecretAndKeyBlockInputs : Prop :=
  (∀ (secret label seed : Bytes) (n : Nat),
    prf secret label seed n =
      xorBytes (pHash .md5 (secret.take ((secret.length + 1) / 2)) (label ++ seed) n)
        (pHash .sha1 (secret.drop (secret.length / 2)) (label ++ seed) n)) ∧
  (∀ a b : Bytes, xorBytes a b = List.zipWith (· ^^^ ·) a b) ∧
  ∀ (c : Conn) (ms : Bytes) (n : Nat) (mode : SeedMode),
    masterSecret .sslv3 c = ssl3Expand c.premasterSecret (c.clientRandom ++ c.serverRandom) 48 ∧
    masterSecret .sslv3 c =
      hash .md5 (c.premasterSecret ++ hash .sha1 ([0x41] ++ c.premasterSecret ++ c.clientRandom ++ c.serverRandom)) ++
      hash .md5 (c.premasterSecret ++ hash .sha1 ([0x42, 0x42] ++ c.premasterSecret ++ c.clientRandom ++ c.serverRandom)) ++
      hash .md5 (c.premasterSecret ++
        hash .sha1 ([0x43, 0x43, 0x43] ++ c.premasterSecret ++ c.clientRandom ++ c.serverRandom)) ∧
    keyBlock .sslv3 .standard c ms n = ssl3Expand ms (c.serverRandom ++ c.clientRandom) n ∧
    keyBlock .sslv3 .literal c ms n =
      ssl3Expand ms ([0x6b, 0x65, 0x79, 0x20, 0x65, 0x78, 0x70, 0x61, 0x6e, 0x73, 0x69, 0x6f, 0x6e] ++
        c.serverRandom ++ c.clientRandom) n ∧
    (∀ cls, cls = .tls10 ∨ cls = .tls11 →
      masterSecret cls c =
        prf c.premasterSecret [0x6d, 0x61, 0x73, 0x74, 0x65, 0x72, 0x20, 0x73, 0x65, 0x63, 0x72, 0x65, 0x74]
          (c.clientRandom ++ c.serverRandom) 48 ∧
      keyBlock cls mode c ms n =
        prf ms [0x6b, 0x65, 0x79, 0x20, 0x65, 0x78, 0x70, 0x61, 0x6e, 0x73, 0x69, 0x6f, 0x6e]
          (c.serverRandom ++ c.clientRandom) n)

/-- R214: `SSL3Expand`, for any number of rounds that is enough. Rests on what R214 takes from general knowledge. -/
def Obligations.Ssl3ExpandIsItsRounds : Prop :=
  ∀ (secret seed : Bytes) (n rounds : Nat), n ≤ 416 → n ≤ 16 * rounds →
    ssl3Expand secret seed n =
      ((List.range rounds).flatMap fun i =>
        hash .md5 (secret ++ hash .sha1 (List.replicate (i + 1) (BitVec.ofNat 8 (0x41 + i)) ++ secret ++ seed))).take n

/-- R213: `P_hash`, for any number of rounds that is enough; `A` of round `i` is the HMAC applied `i + 1` times. Rests on what
R213 takes from general knowledge. -/
def Obligations.PHashIsItsRounds : Prop :=
  ∀ (alg : MacAlg) (secret seed : Bytes) (n rounds : Nat),
    n ≤ (match alg with
      | .md5 => 16
      | .sha1 => 20) * rounds →
    pHash alg secret seed n =
      ((List.range rounds).flatMap fun i => hmac alg secret ((hmac alg secret)^[i + 1] seed ++ seed)).take n

/-- R7, R205, R209, R212: the lengths of what the expansions give. For SSLv3 and `n` above 416 the key block is a free value of
the model, of `n` bytes (log entry 7). For TLS12 and OTHER the rules define no master secret and no key block; there the
functions are the model's own (log entry 25). Rests on the spec's own decision D20 (92_eei_decisions), on what R209 takes from
general knowledge, on what R212 derives. -/
def Obligations.ExpansionsHaveTheirLengths : Prop :=
  ∀ (cls : VersionClass) (mode : SeedMode) (c : Conn) (ms : Bytes) (n : Nat),
    (masterSecret cls c).length = 48 ∧ (keyBlock cls mode c ms n).length = n

/-! ### Record decryption (44_record_decryption) -/

/-- R230, R233: a protected record of a stream suite. Rests on the spec's own decisions D23, D25, D34 (92_eei_decisions), on
what R233 takes from general knowledge. -/
def Obligations.StreamRecordIsDecrypted : Prop :=
  ∀ (s : State) (i : Instr) (d : Dir) (ty vmaj vmin : Byte) (payload : Bytes) (st : StreamState),
    s.decrypts i d ty vmaj vmin payload → s.suite.family = .stream → (s.peer d).keys.streamState = some st →
    ∃ t, exec i s = .next t ∧
      MacOutcome (s.setKeys d { (s.peer d).keys with streamState := some (streamApply st payload).1 }) t d ty vmaj vmin
        (streamApply st payload).2 (5 + payload.length)

/-- R230, R235, R236: a protected record of a block suite: its length, its IV, its padding, and then its MAC. Rests on the
spec's own decisions D18, D23, D25 (92_eei_decisions), on what R237 takes from general knowledge. -/
def Obligations.BlockRecordIsDecrypted : Prop :=
  ∀ (s : State) (i : Instr) (d : Dir) (ty vmaj vmin : Byte) (payload : Bytes),
    s.decrypts i d ty vmaj vmin payload → s.suite.family = .block →
    let cls := versionClass s.conn.version
    let bl := s.suite.blockLen
    let k := (s.peer d).keys
    let iv := if s.conn.version = 0x0302 then payload.take bl else k.iv
    let ct := if s.conn.version = 0x0302 then payload.drop bl else payload
    let chained := if s.conn.version = 0x0300 ∨ s.conn.version = 0x0301 then { k with iv := ct.drop (ct.length - bl) } else k
    ∃ t, exec i s = .next t ∧
      (if payload.length < (if s.conn.version = 0x0302 then 2 * bl else bl) ∨ payload.length % bl ≠ 0 then
        DisabledBy s t d 0x05 0x01
      else
        match unpad cls s.params.paddingCheck s.suite (cbcDec s.suite.cipher k.encKey bl iv ct) with
        | .error e => DisabledBy (s.setKeys d chained) t d e.kind.code e.detail
        | .ok body => MacOutcome (s.setKeys d chained) t d ty vmaj vmin body (5 + payload.length))

/-- R247, R87: a record protected under a NULL-cipher suite is recovered exactly, in each of the three protected forms. Rests
on the spec's own decisions D6, D25 (92_eei_decisions), on what R87 takes from general knowledge. -/
def Obligations.NullCipherRecordRoundTrip : Prop :=
  ∀ (s : State) (i : Instr) (d : Dir) (ty vmaj vmin : Byte) (frag payload : Bytes) (st : StreamState) (alg : MacAlg),
    s.decrypts i d ty vmaj vmin payload → s.suite.family = .stream → (s.peer d).keys.streamState = some st →
    st.cipher = .null → s.suite.macAlg = some alg →
    s.suite.macLen = (match alg with
      | .md5 => 16
      | .sha1 => 20) →
    (s.peer d).keys.seq.toNat < 2 ^ 64 - 1 →
    payload = frag ++ recordMac (versionClass s.conn.version) s.params.macMode s.suite (s.peer d).keys.macKey
      (s.peer d).keys.seq ty vmaj vmin frag →
    exec i s = .next (s.delivered d ty frag (5 + payload.length))

/-- R234: the chaining equation. With an IV that has not the length of a block, the XOR of the first block is the model's
choice (log entry 26). Rests on what R234 takes from general knowledge. -/
def Obligations.CbcDecryptsBlockByBlock : Prop :=
  ∀ (c : Cipher) (key iv : Bytes) (bl : Nat) (blocks : List Bytes), 0 < bl → (∀ b ∈ blocks, b.length = bl) →
    cbcDec c key bl iv blocks.flatten =
      (List.zipWith (fun b prev => xorBytes (blockDec c key b) prev) blocks (iv :: blocks)).flatten

/-- R237: strict unpadding accepts exactly the padded plaintexts, and tells an overrun from a wrong byte; R238: with
`LengthOnly`, SSLv3 padding is any bytes, fewer than a block. Rests on the spec's own decisions D22, D23 (92_eei_decisions), on
what R237, R238 take from general knowledge. -/
def Obligations.UnpadRemovesExactlyThePadding : Prop :=
  (∀ (cls : VersionClass) (mode : PaddingCheck) (p : CipherSuiteParams), ¬ (cls = .sslv3 ∧ mode = .lengthOnly) →
    (∀ pt body, unpad cls mode p pt = .ok body ↔ ∃ pl : Byte, pt = body ++ List.replicate (pl.toNat + 1) pl) ∧
    (∀ (x : Bytes) (pl : Byte), x.length < pl.toNat → unpad cls mode p (x ++ [pl]) = .error .padOverrun) ∧
    (∀ (body pad : Bytes) (pl : Byte), pad.length = pl.toNat → (∃ b ∈ pad, b ≠ pl) →
      unpad cls mode p (body ++ pad ++ [pl]) = .error .padByteMismatch)) ∧
  (∀ (p : CipherSuiteParams) (body pad : Bytes) (pl : Byte), pad.length = pl.toNat →
    (pl.toNat < p.blockLen → unpad .sslv3 .lengthOnly p (body ++ pad ++ [pl]) = .ok body) ∧
    (p.blockLen ≤ pl.toNat → unpad .sslv3 .lengthOnly p (body ++ pad ++ [pl]) = .error .padOverrun)) ∧
  (∀ (p : CipherSuiteParams) (x : Bytes) (pl : Byte), x.length < pl.toNat →
    unpad .sslv3 .lengthOnly p (x ++ [pl]) = .error .padOverrun)

/-- R239, R242, R243, R89: the two MAC constructions. Rests on the spec's own decisions D21, D24 (92_eei_decisions), on what
R89, R243 take from general knowledge. -/
def Obligations.RecordMacConstructions : Prop :=
  ∀ (cls : VersionClass) (mode : MacMode) (p : CipherSuiteParams) (alg : MacAlg) (key frag : Bytes) (seq : BitVec 64)
    (ty vmaj vmin : Byte), p.macAlg = some alg →
    ((cls = .tls10 ∨ cls = .tls11 ∨ mode = .hmac) →
      recordMac cls mode p key seq ty vmaj vmin frag =
        hmac alg key (encBe 8 seq.toNat ++ [ty, vmaj, vmin] ++ encBe 2 frag.length ++ frag)) ∧
    (cls ≠ .tls10 → cls ≠ .tls11 → mode = .ssl3Mac →
      recordMac cls mode p key seq ty vmaj vmin frag =
        let np := match alg with
          | .md5 => 48
          | .sha1 => 40
        hash alg (key ++ List.replicate np 0x5c ++
          hash alg (key ++ List.replicate np 0x36 ++ (encBe 8 seq.toNat ++ [ty] ++ encBe 2 frag.length ++ frag))))

/-! ### Handshake (42_handshake) -/

/-- R160, R167, R168, R169: a plaintext handshake record of skipped messages, none included, reports each and is consumed.
Rests on the spec's own decisions D9, D46 (92_eei_decisions). -/
def Obligations.HandshakeRecordOfSkippedMessages : Prop :=
  ∀ (d : Dir) (vmaj vmin : Byte) (ms : List (Byte × Bytes)) (s : State), SkippedMessages ms →
    s.dispatches d (messagesBytes ms) →
    exec (.handshakePlain d vmaj vmin (messagesBytes ms)) s =
      .next ((s.report (ms.map fun m => .hsMsg d m.1 m.2)).advance d (5 + (messagesBytes ms).length))

/-- R162, R163, R188: a length that overruns the payload, or a header that is not whole, disables; the messages before it are
reported. Rests on the spec's own decisions D10, D33 (92_eei_decisions). -/
def Obligations.HandshakeFramingErrors : Prop :=
  ∀ (d : Dir) (vmaj vmin : Byte) (ms : List (Byte × Bytes)) (tail : Bytes) (s : State), SkippedMessages ms →
    s.dispatches d (messagesBytes ms ++ tail) →
    (0 < tail.length → tail.length < 4 →
      ∃ t, exec (.handshakePlain d vmaj vmin (messagesBytes ms ++ tail)) s = .next t ∧
        DisabledBy (s.report (ms.map fun m => .hsMsg d m.1 m.2)) t d 0x01 0x02) ∧
    (∀ (ty : Byte) (n : Nat) (x : Bytes), tail = ty :: (encBe 3 n ++ x) → n < 16777216 → x.length < n →
      ∃ t, exec (.handshakePlain d vmaj vmin (messagesBytes ms ++ tail)) s = .next t ∧
        DisabledBy (s.report (ms.map fun m => .hsMsg d m.1 m.2)) t d 0x01 0x03)

/-- R167, R168, R176 to R182: a skipped message writes no register and is reported. A message run alone, on a closed engine
too, is the model's (log entries 5, 27). Rests on the spec's own decision D9 (92_eei_decisions). -/
def Obligations.SkippedMessagesOnlyReport : Prop :=
  ∀ (d : Dir) (body : Bytes) (s : State), s.running →
    exec (.hsHelloRequest d body) s = .next (s.report [.hsMsg d 0 body]) ∧
    exec (.hsCertificate d body) s = .next (s.report [.hsMsg d 11 body]) ∧
    exec (.hsServerKeyExchange d body) s = .next (s.report [.hsMsg d 12 body]) ∧
    exec (.hsCertificateRequest d body) s = .next (s.report [.hsMsg d 13 body]) ∧
    exec (.hsServerHelloDone d body) s = .next (s.report [.hsMsg d 14 body]) ∧
    exec (.hsCertificateVerify d body) s = .next (s.report [.hsMsg d 15 body]) ∧
    exec (.hsFinished d body) s = .next (s.report [.hsMsg d 20 body]) ∧
    ∀ ty, exec (.hsUnknown d ty body) s = .next (s.report [.hsMsg d ty body])

/-- R170, R76, R186, R189: a ClientHello without an extensions block. The ClientHello variables it leaves are the model's own
(log entry 12). A message run alone, on a closed engine too, is the model's (log entries 5, 27). Rests on the spec's own
decisions D12, D35, D45 (92_eei_decisions). -/
def Obligations.ClientHelloWithoutExtensions : Prop :=
  ∀ (s : State) (ver random sid suites methods : Bytes), s.running → s.peer0.hsState = .start →
    ver.length = 2 → random.length = 32 → sid.length < 256 → suites.length < 65536 → methods.length < 256 →
    let body := ver ++ random ++ (encBe 1 sid.length ++ sid) ++ (encBe 2 suites.length ++ suites) ++
      (encBe 1 methods.length ++ methods)
    exec (.hsClientHello .clientToServer body) s =
      .next ({ s with
        conn := { s.conn with clientRandom := random, clientSessionId := sid,
                              compression := methods.headD s.conn.compression, clientRandomSet := true }
        work := { sni := s.conn.sni, ticket := s.conn.clientTicket, found := false }
        peer0 := { s.peer0 with hsState := .sawHello } }.report [.hsMsg .clientToServer 1 body])

/-- R170, R171, R183, R184, R185: a ClientHello with an unknown extension, a server_name extension of one host name and a
session_ticket extension, and bytes after its extensions block. The ClientHello variables it leaves are the model's own (log
entry 12). A message run alone, on a closed engine too, is the model's (log entries 5, 27). Rests on the spec's own decisions
D11, D12 (92_eei_decisions), on what R183 takes from general knowledge. -/
def Obligations.ClientHelloWithServerNameAndTicket : Prop :=
  ∀ (s : State) (ver random sid suites methods name ticket other rest : Bytes) (ty : BitVec 16), s.running →
    s.peer0.hsState = .start → ver.length = 2 → random.length = 32 → sid.length < 256 → suites.length < 65536 →
    methods.length < 256 → ty ≠ 0 → ty ≠ 35 → other.length + name.length + ticket.length < 65000 →
    let ext := encodeExtension ty.toNat other ++
      encodeExtension 0 (encBe 2 (3 + name.length) ++ (0x00 :: (encBe 2 name.length ++ name))) ++ encodeExtension 35 ticket
    let body := ver ++ random ++ (encBe 1 sid.length ++ sid) ++ (encBe 2 suites.length ++ suites) ++
      (encBe 1 methods.length ++ methods) ++ (encBe 2 ext.length ++ ext) ++ rest
    exec (.hsClientHello .clientToServer body) s =
      .next ({ s with
        conn := { s.conn with clientRandom := random, clientSessionId := sid,
                              compression := methods.headD s.conn.compression, sni := name, clientTicket := ticket,
                              clientRandomSet := true }
        work := { sni := name, ticket := ticket, found := true }
        peer0 := { s.peer0 with hsState := .sawHello } }.report [.hsMsg .clientToServer 1 body])

/-- R172, R173, R80: a ServerHello whose suite the table has with RSA key exchange. A message run alone, on a closed engine
too, is the model's (log entries 5, 27). Rests on the spec's own decisions D13, D52 (92_eei_decisions). -/
def Obligations.ServerHelloIsAccepted : Prop :=
  ∀ (s : State) (ver suite : BitVec 16) (random sid rest : Bytes) (cm : Byte) (p : CipherSuiteParams), s.running →
    s.peer1.hsState = .start → random.length = 32 → sid.length < 256 →
    (s.params.suiteTable.map (·.1)).Nodup → (suite, p) ∈ s.params.suiteTable → p.keyExchangeIsRsa = true →
    let body := encBe 2 ver.toNat ++ random ++ (encBe 1 sid.length ++ sid) ++ encBe 2 suite.toNat ++ [cm] ++ rest
    exec (.hsServerHello .serverToClient body) s =
      .next ({ s with
        conn := { s.conn with version := ver, serverRandom := random, serverSessionId := sid, cipherSuite := suite,
                              compression := cm, params := some { id := suite, suite := p }, serverRandomSet := true }
        peer1 := { s.peer1 with hsState := .sawHello } }.report [.hsMsg .serverToClient 2 body])

/-- R173, R172, R188: a ServerHello whose suite is unknown, or not RSA, disables the connection; the fields it parsed stay. A
message run alone, on a closed engine too, is the model's (log entries 5, 27). Rests on the spec's own decisions D13, D33, D52
(92_eei_decisions). -/
def Obligations.ServerHelloIsRejected : Prop :=
  ∀ (s : State) (ver suite : BitVec 16) (random sid rest : Bytes) (cm : Byte), s.running →
    s.peer1.hsState = .start → random.length = 32 → sid.length < 256 → (s.params.suiteTable.map (·.1)).Nodup →
    let body := encBe 2 ver.toNat ++ random ++ (encBe 1 sid.length ++ sid) ++ encBe 2 suite.toNat ++ [cm] ++ rest
    let parsed : State := { s with
      conn := { s.conn with version := ver, serverRandom := random, serverSessionId := sid, cipherSuite := suite,
                            compression := cm } }
    ((∀ p, (suite, p) ∉ s.params.suiteTable) →
      ∃ t, exec (.hsServerHello .serverToClient body) s = .next t ∧ DisabledBy parsed t .serverToClient 0x02 0x01) ∧
    (∀ p, (suite, p) ∈ s.params.suiteTable → p.keyExchangeIsRsa = false →
      ∃ t, exec (.hsServerHello .serverToClient body) s = .next t ∧ DisabledBy parsed t .serverToClient 0x02 0x02)

/-- R174, R200, R81: a ClientKeyExchange, for each answer the RSA primitive can give. A message run alone, on a closed engine
too, is the model's (log entries 5, 27). Rests on the spec's own decision D15 (92_eei_decisions), on what R174 takes from
general knowledge. -/
def Obligations.ClientKeyExchangeRecoversThePremaster : Prop :=
  ∀ (s : State) (enc rest : Bytes), s.running → s.conn.premasterSet = false → enc.length < 65536 →
    let body := encBe 2 enc.length ++ enc ++ rest
    let raw : State := { s with conn := { s.conn with premasterSecret := enc } }
    ∃ t, exec (.hsClientKeyExchange .clientToServer body) s = .next t ∧
      match Config.rsaDecrypt s.params.rsaKey enc with
      | none => DisabledBy raw t .clientToServer 0x04 0x01
      | some pm =>
        if pm.length = 48 then
          t = { s with conn := { s.conn with premasterSecret := pm, premasterSet := true } }.report
            [.hsMsg .clientToServer 16 body]
        else DisabledBy raw t .clientToServer 0x04 0x02

/-- R175, R82: a NewSessionTicket. A message run alone, on a closed engine too, is the model's (log entries 5, 27). Rests on
the spec's own decisions D8, D16 (92_eei_decisions). -/
def Obligations.NewSessionTicketIsKept : Prop :=
  ∀ (s : State) (hint ticket rest : Bytes), s.running → hint.length = 4 → ticket.length < 65536 →
    let body := hint ++ (encBe 2 ticket.length ++ ticket) ++ rest
    exec (.hsNewSessionTicket .serverToClient body) s =
      .next ({ s with conn := { s.conn with serverTicket := ticket } }.report [.hsMsg .serverToClient 4 body])

/-- R165: the four direction-specific messages, in the other direction. A message run alone, on a closed engine too, is the
model's (log entries 5, 27). Rests on the spec's own decision D7 (92_eei_decisions). -/
def Obligations.WrongDirectionDisables : Prop :=
  ∀ (s : State) (body : Bytes), s.running →
    (∃ t, exec (.hsClientHello .serverToClient body) s = .next t ∧ DisabledBy s t .serverToClient 0x01 0x0A) ∧
    (∃ t, exec (.hsClientKeyExchange .serverToClient body) s = .next t ∧ DisabledBy s t .serverToClient 0x01 0x0A) ∧
    (∃ t, exec (.hsServerHello .clientToServer body) s = .next t ∧ DisabledBy s t .clientToServer 0x01 0x0A) ∧
    (∃ t, exec (.hsNewSessionTicket .clientToServer body) s = .next t ∧ DisabledBy s t .clientToServer 0x01 0x0A)

/-- R166: a repeated hello or key exchange, whatever its body. A message run alone, on a closed engine too, is the model's (log
entries 5, 27). Rests on the spec's own decision D8 (92_eei_decisions). -/
def Obligations.DuplicateMessageDisables : Prop :=
  ∀ (s : State) (body : Bytes), s.running →
    (s.peer0.hsState ≠ .start →
      ∃ t, exec (.hsClientHello .clientToServer body) s = .next t ∧ DisabledBy s t .clientToServer 0x01 0x0B) ∧
    (s.peer1.hsState ≠ .start →
      ∃ t, exec (.hsServerHello .serverToClient body) s = .next t ∧ DisabledBy s t .serverToClient 0x01 0x0B) ∧
    (s.conn.premasterSet = true →
      ∃ t, exec (.hsClientKeyExchange .clientToServer body) s = .next t ∧ DisabledBy s t .clientToServer 0x01 0x0B)

/-- R170, R171, R172, R174, R175, R183: bodies and a server_name payload that end before their fields do: a ClientHello below
its fixed fields, one whose session id, cipher-suite list, compression list or extensions block overruns, or with one byte
after the compression list, or with an extension that is not whole (which leaves the ClientHello variables, the model's own, as
they were set: log entry 12); a message or an extension run alone, on a closed engine too, and the direction charged for such
an extension are the model's (log entries 5, 27). Rests on the spec's own decisions D11, D12, D13, D15, D16, D52
(92_eei_decisions), on what R174, R183 take from general knowledge. -/
def Obligations.ShortBodiesAreMalformed : Prop :=
  ∀ (s : State), s.running →
    (s.peer0.hsState = .start → ∀ body : Bytes, body.length < 38 →
      ∃ t, exec (.hsClientHello .clientToServer body) s = .next t ∧ DisabledBy s t .clientToServer 0x01 0x04) ∧
    (s.peer0.hsState = .start → ∀ (fixed sid suites methods tail : Bytes), fixed.length = 34 → sid.length < 256 →
      suites.length < 65536 → methods.length < 256 →
      let toSuites := fixed ++ (encBe 1 sid.length ++ sid)
      let toMethods := toSuites ++ (encBe 2 suites.length ++ suites)
      let toExtensions := toMethods ++ (encBe 1 methods.length ++ methods)
      ∀ body : Bytes,
        (body = fixed ++ tail ∧ tail.length < 1 + (byteAt tail 0).toNat) ∨
        (body = toSuites ++ tail ∧ tail.length < 2 + beNat (tail.take 2)) ∨
        (body = toMethods ++ tail ∧ tail.length < 1 + (byteAt tail 0).toNat) ∨
        (body = toExtensions ++ tail ∧
          (tail.length = 1 ∨ (2 ≤ tail.length ∧ tail.length < 2 + beNat (tail.take 2)))) →
        ∃ t, exec (.hsClientHello .clientToServer body) s = .next t ∧ DisabledBy s t .clientToServer 0x01 0x04) ∧
    (s.peer0.hsState = .start → ∀ (fixed sid suites methods ext rest : Bytes) (e : DecodeError), fixed.length = 34 →
      sid.length < 256 → suites.length < 65536 → methods.length < 256 → ext ≠ [] → ext.length < 65536 →
      decode .extension ext = .error e →
      ∃ t, exec (.hsClientHello .clientToServer
          (fixed ++ (encBe 1 sid.length ++ sid) ++ (encBe 2 suites.length ++ suites) ++ (encBe 1 methods.length ++ methods) ++
            (encBe 2 ext.length ++ ext) ++ rest)) s = .next t ∧
        DisabledBy { s with work := { sni := s.conn.sni, ticket := s.conn.clientTicket, found := false } } t
          .clientToServer 0x01 0x04) ∧
    ∀ body : Bytes,
      (s.peer1.hsState = .start → body.length < 38 + (byteAt body 34).toNat →
        ∃ t, exec (.hsServerHello .serverToClient body) s = .next t ∧ DisabledBy s t .serverToClient 0x01 0x05) ∧
      (s.conn.premasterSet = false → body.length < 2 + beNat (body.take 2) →
        ∃ t, exec (.hsClientKeyExchange .clientToServer body) s = .next t ∧ DisabledBy s t .clientToServer 0x01 0x06) ∧
      (body.length < 6 + beNat ((body.drop 4).take 2) →
        ∃ t, exec (.hsNewSessionTicket .serverToClient body) s = .next t ∧ DisabledBy s t .serverToClient 0x01 0x07) ∧
      ((body.length = 1 ∨ (2 ≤ body.length ∧ body.length < 2 + beNat (body.take 2))) →
        ∃ t, exec (.extServerName body) s = .next t ∧ DisabledBy s t .clientToServer 0x01 0x04)

/-- R183, R184, R185: what an extension or a list entry, run alone, on a closed engine too, does to the variables of the
ClientHello in progress, which are State fields of the model (log entries 5, 12, 27). Rests on the spec's own decision D11
(92_eei_decisions), on what R183 takes from general knowledge. -/
def Obligations.ExtensionsAndEntriesWriteTheHelloVariables : Prop :=
  ∀ (s : State) (x : Bytes), s.running →
    exec (.extSessionTicket x) s = .next { s with work := { s.work with ticket := x } } ∧
    (∀ ty, exec (.extOther ty x) s = .next s) ∧
    (s.work.found = false → exec (.sniHostName x) s = .next { s with work := { s.work with sni := x, found := true } }) ∧
    (s.work.found = true → exec (.sniHostName x) s = .next s) ∧
    (∀ ty, exec (.sniOther ty x) s = .next s)

/-- R183: the first host name of a server_name list is kept; a list without one leaves the name; bytes after the list are
ignored; an empty payload changes nothing. The variables are State fields of the model, and an extension run alone, on a closed
engine too, is the model's (log entries 5, 12, 27). Rests on the spec's own decision D11 (92_eei_decisions), on what R183 takes
from general knowledge. -/
def Obligations.ServerNameKeepsTheFirstHostName : Prop :=
  ∀ (s : State), s.running →
    exec (.extServerName []) s = .next s ∧
    ∀ (ns : List (Byte × Bytes)) (rest : Bytes), (∀ n ∈ ns, n.2.length < 65536) → (sniBytes ns).length < 65536 →
      exec (.extServerName (encBe 2 (sniBytes ns).length ++ sniBytes ns ++ rest)) s =
        .next { s with work :=
          { s.work with
            sni := ((ns.filter fun n => n.1 == 0).map (·.2)).headD s.work.sni
            found := ns.any fun n => n.1 == 0 } }
end

