-- ==== Sys2Proof/Laws/PerInstr.lean ====
section
/-! SUPPORT. The per-instruction family `EncodedSize`: how many bytes an instruction's encoding has, one lemma per constructor. A record
that is consumed advances its cursor by that many bytes (R36, R130). -/
namespace Sys2Proof.Laws

/-- The number of bytes of an encoding: the header of its format and its operand bytes (R70, R74, R77, R78, R93). -/
def EncodedSize.bytes : Instr → Nat
  | .ccs _ _ _ p | .alertPlain _ _ _ p | .alertProtected _ _ _ p | .handshakePlain _ _ _ p
  | .handshakeProtected _ _ _ p | .appData _ _ _ p | .recordIllegal _ _ _ _ p => 5 + p.length
  | .hsHelloRequest _ b | .hsClientHello _ b | .hsServerHello _ b | .hsNewSessionTicket _ b | .hsCertificate _ b
  | .hsServerKeyExchange _ b | .hsCertificateRequest _ b | .hsServerHelloDone _ b | .hsCertificateVerify _ b
  | .hsClientKeyExchange _ b | .hsFinished _ b | .hsUnknown _ _ b => 4 + b.length
  | .extServerName x | .extSessionTicket x | .extOther _ x => 4 + x.length
  | .sniHostName n | .sniOther _ n => 3 + n.length
  | .feed _ x => 6 + x.length
  | .create _ | .status | .finish | .cmdIllegal _ => 1

/-- An encoding has the size of its format. -/
def EncodedSize.Statement (i : Instr) : Prop :=
  (encode i).length = EncodedSize.bytes i

theorem length_encBe (n v : Nat) : (encBe n v).length = n := by
  induction n with
  | zero => rfl
  | succ n ih => simp [encBe, ih]

theorem length_encodeRecord (t a b : Byte) (p : Bytes) : (encodeRecord t a b p).length = 5 + p.length := by
  simp [encodeRecord, length_encBe]; omega

theorem length_encodeMessage (t : Byte) (x : Bytes) : (encodeMessage t x).length = 4 + x.length := by
  simp [encodeMessage, length_encBe]; omega

theorem length_encodeExtension (t : Nat) (x : Bytes) : (encodeExtension t x).length = 4 + x.length := by
  simp [encodeExtension, length_encBe]; omega

theorem length_encodeSniEntry (t : Byte) (x : Bytes) : (encodeSniEntry t x).length = 3 + x.length := by
  simp [encodeSniEntry, length_encBe]; omega

namespace EncodedSize

theorem ccs (d : Dir) (a b : Byte) (p : Bytes) : Statement (.ccs d a b p) := length_encodeRecord _ _ _ _
theorem alertPlain (d : Dir) (a b : Byte) (p : Bytes) : Statement (.alertPlain d a b p) := length_encodeRecord _ _ _ _
theorem alertProtected (d : Dir) (a b : Byte) (p : Bytes) : Statement (.alertProtected d a b p) := length_encodeRecord _ _ _ _
theorem handshakePlain (d : Dir) (a b : Byte) (p : Bytes) : Statement (.handshakePlain d a b p) := length_encodeRecord _ _ _ _
theorem handshakeProtected (d : Dir) (a b : Byte) (p : Bytes) : Statement (.handshakeProtected d a b p) :=
  length_encodeRecord _ _ _ _
theorem appData (d : Dir) (a b : Byte) (p : Bytes) : Statement (.appData d a b p) := length_encodeRecord _ _ _ _
theorem recordIllegal (d : Dir) (t a b : Byte) (p : Bytes) : Statement (.recordIllegal d t a b p) :=
  length_encodeRecord _ _ _ _
theorem hsHelloRequest (d : Dir) (x : Bytes) : Statement (.hsHelloRequest d x) := length_encodeMessage _ _
theorem hsClientHello (d : Dir) (x : Bytes) : Statement (.hsClientHello d x) := length_encodeMessage _ _
theorem hsServerHello (d : Dir) (x : Bytes) : Statement (.hsServerHello d x) := length_encodeMessage _ _
theorem hsNewSessionTicket (d : Dir) (x : Bytes) : Statement (.hsNewSessionTicket d x) := length_encodeMessage _ _
theorem hsCertificate (d : Dir) (x : Bytes) : Statement (.hsCertificate d x) := length_encodeMessage _ _
theorem hsServerKeyExchange (d : Dir) (x : Bytes) : Statement (.hsServerKeyExchange d x) := length_encodeMessage _ _
theorem hsCertificateRequest (d : Dir) (x : Bytes) : Statement (.hsCertificateRequest d x) := length_encodeMessage _ _
theorem hsServerHelloDone (d : Dir) (x : Bytes) : Statement (.hsServerHelloDone d x) := length_encodeMessage _ _
theorem hsCertificateVerify (d : Dir) (x : Bytes) : Statement (.hsCertificateVerify d x) := length_encodeMessage _ _
theorem hsClientKeyExchange (d : Dir) (x : Bytes) : Statement (.hsClientKeyExchange d x) := length_encodeMessage _ _
theorem hsFinished (d : Dir) (x : Bytes) : Statement (.hsFinished d x) := length_encodeMessage _ _
theorem hsUnknown (d : Dir) (t : Byte) (x : Bytes) : Statement (.hsUnknown d t x) := length_encodeMessage _ _
theorem extServerName (x : Bytes) : Statement (.extServerName x) := length_encodeExtension _ _
theorem extSessionTicket (x : Bytes) : Statement (.extSessionTicket x) := length_encodeExtension _ _
theorem extOther (t : BitVec 16) (x : Bytes) : Statement (.extOther t x) := length_encodeExtension _ _
theorem sniHostName (x : Bytes) : Statement (.sniHostName x) := length_encodeSniEntry _ _
theorem sniOther (t : Byte) (x : Bytes) : Statement (.sniOther t x) := length_encodeSniEntry _ _
theorem create (p : Params) : Statement (.create p) := rfl
theorem feed (d : Byte) (x : Bytes) : Statement (.feed d x) := by
  simp [Statement, encode, bytes, length_encBe]; omega
theorem status : Statement .status := rfl
theorem finish : Statement .finish := rfl
theorem cmdIllegal (op : Byte) : Statement (.cmdIllegal op) := rfl

end EncodedSize

end Sys2Proof.Laws
end

