-- ==== Sys2Proof/Laws/Codec.lean ====
section
/-! SUPPORT. The byte-order helpers and the framing, said once: reading back what is written, and the bytes a frame is made of. -/
namespace Sys2Proof

theorem beNat_foldl (acc : Nat) (bs : Bytes) :
    bs.foldl (fun a b => a * 256 + b.toNat) acc = acc * 256 ^ bs.length + beNat bs := by
  induction bs generalizing acc with
  | nil => simp [beNat]
  | cons b bs ih =>
    simp only [List.foldl_cons, List.length_cons, beNat]
    rw [ih, ih (0 * 256 + b.toNat)]
    ring

@[simp] theorem beNat_nil : beNat [] = 0 := rfl

theorem beNat_cons (b : Byte) (bs : Bytes) : beNat (b :: bs) = b.toNat * 256 ^ bs.length + beNat bs := by
  have := beNat_foldl (0 * 256 + b.toNat) bs
  simpa [beNat] using this

theorem beNat_append (a b : Bytes) : beNat (a ++ b) = beNat a * 256 ^ b.length + beNat b := by
  unfold beNat
  rw [List.foldl_append, beNat_foldl]
  rfl

/-- A byte string of `n` bytes is a number below `256^n`. -/
theorem beNat_lt (bs : Bytes) : beNat bs < 256 ^ bs.length := by
  induction bs with
  | nil => simp
  | cons b bs ih =>
    rw [beNat_cons, List.length_cons, Nat.pow_succ]
    have hb : b.toNat < 256 := b.isLt
    nlinarith [Nat.mul_le_mul_right (256 ^ bs.length) (Nat.succ_le_of_lt hb)]

theorem beNat_encBe_mod (n v : Nat) : beNat (encBe n v) = v % 256 ^ n := by
  induction n with
  | zero => simp [encBe, Nat.mod_one]
  | succ n ih =>
    rw [encBe, beNat_cons, ih, Laws.length_encBe]
    have h : v % (256 ^ n * 256) = v % 256 ^ n + 256 ^ n * (v / 256 ^ n % 256) := Nat.mod_mul
    rw [Nat.pow_succ, h, BitVec.toNat_ofNat, Nat.mul_comm, Nat.add_comm]

/-- `enc_be` is read back (R10). -/
theorem beNat_encBe {n v : Nat} (h : v < 256 ^ n) : beNat (encBe n v) = v := by
  rw [beNat_encBe_mod, Nat.mod_eq_of_lt h]

theorem encBe_mod (n v k : Nat) : encBe n (v + k * 256 ^ n) = encBe n v := by
  induction n generalizing k with
  | zero => rfl
  | succ n ih =>
    simp only [encBe]
    have h1 : (v + k * 256 ^ (n + 1)) / 256 ^ n = v / 256 ^ n + k * 256 := by
      rw [Nat.pow_succ, show k * (256 ^ n * 256) = (k * 256) * 256 ^ n by ring]
      rw [Nat.add_mul_div_right _ _ (Nat.pos_of_ne_zero (by positivity))]
    have h2 : v + k * 256 ^ (n + 1) = v + (k * 256) * 256 ^ n := by ring
    rw [h1, h2, ih]
    congr 1
    apply BitVec.eq_of_toNat_eq
    simp only [BitVec.toNat_ofNat]
    omega

/-- A byte string is the encoding of its value. -/
theorem encBe_beNat (bs : Bytes) : encBe bs.length (beNat bs) = bs := by
  induction bs with
  | nil => rfl
  | cons b bs ih =>
    rw [List.length_cons, beNat_cons, encBe]
    have hlt := beNat_lt bs
    have hpos : 0 < 256 ^ bs.length := by positivity
    congr 1
    · have : (b.toNat * 256 ^ bs.length + beNat bs) / 256 ^ bs.length = b.toNat := by
        rw [Nat.add_comm, Nat.add_mul_div_right _ _ hpos, Nat.div_eq_of_lt hlt, Nat.zero_add]
      rw [this]
      exact BitVec.eq_of_toNat_eq (by simp)
    · rw [Nat.add_comm, encBe_mod, ih]

theorem encBe_beNat_of_length {n : Nat} {bs : Bytes} (h : bs.length = n) : encBe n (beNat bs) = bs := by
  subst h; exact encBe_beNat bs

/-- A frame that is all there is read back, with the bytes after it. -/
theorem splitFrame_append {hdr off : Nat} {h body : Bytes} (rest : Bytes) (hl : h.length = hdr)
    (hb : beNat (h.drop off) = body.length) : splitFrame hdr off (h ++ body ++ rest) = .ok (h, body, rest) := by
  have ht : (h ++ body ++ rest).take hdr = h := by
    rw [List.append_assoc, ← hl, List.take_left]
  have hd : (h ++ body ++ rest).drop hdr = body ++ rest := by
    rw [List.append_assoc, ← hl, List.drop_left]
  unfold splitFrame
  rw [ht, hd, hb, if_neg (by simp; omega), if_neg (by simp; omega), List.take_left, List.drop_left]

/-- What a frame that was read says of the bytes. -/
theorem splitFrame_ok {hdr off : Nat} {bs h body rest : Bytes} (e : splitFrame hdr off bs = .ok (h, body, rest)) :
    bs = h ++ body ++ rest ∧ h.length = hdr ∧ body.length = beNat (h.drop off) := by
  unfold splitFrame at e
  split at e
  · cases e
  · split at e
    · cases e
    · rename_i h1 h2
      cases e
      refine ⟨by simp, by simp; omega, ?_⟩
      rw [List.length_take, List.length_drop]; omega

end Sys2Proof
end

