-- ==== Sys2Proof/Laws/State.lean ====
section
/-! SUPPORT. The small lemmas of the state's accessors and updates: one for each field and each update, so that no later proof unfolds
a record update. -/
namespace Sys2Proof.Machine

@[simp] theorem other_other (d : Dir) : d.other.other = d := by cases d <;> rfl
@[simp] theorem other_ne (d : Dir) : d.other ≠ d := by cases d <;> decide
@[simp] theorem ne_other (d : Dir) : d ≠ d.other := by cases d <;> decide
theorem eq_or_eq_other (d e : Dir) : e = d ∨ e = d.other := by cases d <;> cases e <;> decide

theorem peer_clientToServer (s : State) : s.peer .clientToServer = s.peer0 := rfl
theorem peer_serverToClient (s : State) : s.peer .serverToClient = s.peer1 := rfl

/-! ### setPeer -/

@[simp] theorem conn_setPeer (s : State) (d : Dir) (p : Peer) : (s.setPeer d p).conn = s.conn := by cases d <;> rfl
@[simp] theorem params_setPeer (s : State) (d : Dir) (p : Peer) : (s.setPeer d p).params = s.params := by cases d <;> rfl
@[simp] theorem work_setPeer (s : State) (d : Dir) (p : Peer) : (s.setPeer d p).work = s.work := by cases d <;> rfl
@[simp] theorem response_setPeer (s : State) (d : Dir) (p : Peer) : (s.setPeer d p).response = s.response := by cases d <;> rfl
@[simp] theorem pending_setPeer (s : State) (d : Dir) (p : Peer) : (s.setPeer d p).pending = s.pending := by cases d <;> rfl
@[simp] theorem peer_setPeer_other (s : State) (d : Dir) (p : Peer) : (s.setPeer d p).peer d.other = s.peer d.other := by
  cases d <;> rfl
@[simp] theorem peer_setPeer_same (s : State) (d : Dir) (p : Peer) :
    (s.setPeer d p).peer d = p := by cases d <;> rfl
/-! ### setHs -/

@[simp] theorem conn_setHs (s : State) (d : Dir) (h : HandshakeState) : (s.setHs d h).conn = s.conn := by cases d <;> rfl
@[simp] theorem params_setHs (s : State) (d : Dir) (h : HandshakeState) : (s.setHs d h).params = s.params := by cases d <;> rfl
@[simp] theorem work_setHs (s : State) (d : Dir) (h : HandshakeState) : (s.setHs d h).work = s.work := by cases d <;> rfl
@[simp] theorem response_setHs (s : State) (d : Dir) (h : HandshakeState) : (s.setHs d h).response = s.response := by cases d <;> rfl
@[simp] theorem pending_setHs (s : State) (d : Dir) (h : HandshakeState) : (s.setHs d h).pending = s.pending := by cases d <;> rfl
@[simp] theorem peer_setHs_other (s : State) (d : Dir) (h : HandshakeState) : (s.setHs d h).peer d.other = s.peer d.other := by
  cases d <;> rfl
@[simp] theorem peer_setHs_same (s : State) (d : Dir) (h : HandshakeState) :
    (s.setHs d h).peer d = { s.peer d with hsState := h } := by cases d <;> rfl
@[simp] theorem stream_setHs (s : State) (d e : Dir) (h : HandshakeState) : ((s.setHs d h).peer e).stream = (s.peer e).stream := by
  cases d <;> cases e <;> rfl
@[simp] theorem keys_setHs (s : State) (d e : Dir) (h : HandshakeState) : ((s.setHs d h).peer e).keys = (s.peer e).keys := by
  cases d <;> cases e <;> rfl
@[simp] theorem avail_setHs (s : State) (d e : Dir) (h : HandshakeState) : (s.setHs d h).avail e = s.avail e := by
  cases d <;> cases e <;> rfl
@[simp] theorem unconsumed_setHs (s : State) (d e : Dir) (h : HandshakeState) : (s.setHs d h).unconsumed e = s.unconsumed e := by
  cases d <;> cases e <;> rfl
@[simp] theorem peek_setHs (s : State) (d e : Dir) (h : HandshakeState) (m : Nat) : (s.setHs d h).peek e m = s.peek e m := by
  cases d <;> cases e <;> rfl
/-! ### setStream -/

@[simp] theorem conn_setStream (s : State) (d : Dir) (x : Stream) : (s.setStream d x).conn = s.conn := by cases d <;> rfl
@[simp] theorem params_setStream (s : State) (d : Dir) (x : Stream) : (s.setStream d x).params = s.params := by cases d <;> rfl
@[simp] theorem work_setStream (s : State) (d : Dir) (x : Stream) : (s.setStream d x).work = s.work := by cases d <;> rfl
@[simp] theorem response_setStream (s : State) (d : Dir) (x : Stream) : (s.setStream d x).response = s.response := by cases d <;> rfl
@[simp] theorem pending_setStream (s : State) (d : Dir) (x : Stream) : (s.setStream d x).pending = s.pending := by cases d <;> rfl
@[simp] theorem peer_setStream_other (s : State) (d : Dir) (x : Stream) : (s.setStream d x).peer d.other = s.peer d.other := by
  cases d <;> rfl
@[simp] theorem peer_setStream_same (s : State) (d : Dir) (x : Stream) :
    (s.setStream d x).peer d = { s.peer d with stream := x } := by cases d <;> rfl
@[simp] theorem hsState_setStream (s : State) (d e : Dir) (x : Stream) : ((s.setStream d x).peer e).hsState = (s.peer e).hsState := by
  cases d <;> cases e <;> rfl
@[simp] theorem keys_setStream (s : State) (d e : Dir) (x : Stream) : ((s.setStream d x).peer e).keys = (s.peer e).keys := by
  cases d <;> cases e <;> rfl
@[simp] theorem avail_setStream_other (s : State) (d : Dir) (x : Stream) : (s.setStream d x).avail d.other = s.avail d.other := by
  cases d <;> rfl
@[simp] theorem unconsumed_setStream_other (s : State) (d : Dir) (x : Stream) :
    (s.setStream d x).unconsumed d.other = s.unconsumed d.other := by cases d <;> rfl
/-! ### setKeys -/

@[simp] theorem conn_setKeys (s : State) (d : Dir) (k : KeyBank) : (s.setKeys d k).conn = s.conn := by cases d <;> rfl
@[simp] theorem params_setKeys (s : State) (d : Dir) (k : KeyBank) : (s.setKeys d k).params = s.params := by cases d <;> rfl
@[simp] theorem work_setKeys (s : State) (d : Dir) (k : KeyBank) : (s.setKeys d k).work = s.work := by cases d <;> rfl
@[simp] theorem response_setKeys (s : State) (d : Dir) (k : KeyBank) : (s.setKeys d k).response = s.response := by cases d <;> rfl
@[simp] theorem pending_setKeys (s : State) (d : Dir) (k : KeyBank) : (s.setKeys d k).pending = s.pending := by cases d <;> rfl
@[simp] theorem peer_setKeys_other (s : State) (d : Dir) (k : KeyBank) : (s.setKeys d k).peer d.other = s.peer d.other := by
  cases d <;> rfl
@[simp] theorem peer_setKeys_same (s : State) (d : Dir) (k : KeyBank) :
    (s.setKeys d k).peer d = { s.peer d with keys := k } := by cases d <;> rfl
@[simp] theorem hsState_setKeys (s : State) (d e : Dir) (k : KeyBank) : ((s.setKeys d k).peer e).hsState = (s.peer e).hsState := by
  cases d <;> cases e <;> rfl
@[simp] theorem stream_setKeys (s : State) (d e : Dir) (k : KeyBank) : ((s.setKeys d k).peer e).stream = (s.peer e).stream := by
  cases d <;> cases e <;> rfl
@[simp] theorem avail_setKeys (s : State) (d e : Dir) (k : KeyBank) : (s.setKeys d k).avail e = s.avail e := by
  cases d <;> cases e <;> rfl
@[simp] theorem unconsumed_setKeys (s : State) (d e : Dir) (k : KeyBank) : (s.setKeys d k).unconsumed e = s.unconsumed e := by
  cases d <;> cases e <;> rfl
@[simp] theorem peek_setKeys (s : State) (d e : Dir) (k : KeyBank) (m : Nat) : (s.setKeys d k).peek e m = s.peek e m := by
  cases d <;> cases e <;> rfl
/-! ### advance -/

@[simp] theorem conn_advance (s : State) (d : Dir) (n : Nat) : (s.advance d n).conn = s.conn := by cases d <;> rfl
@[simp] theorem params_advance (s : State) (d : Dir) (n : Nat) : (s.advance d n).params = s.params := by cases d <;> rfl
@[simp] theorem work_advance (s : State) (d : Dir) (n : Nat) : (s.advance d n).work = s.work := by cases d <;> rfl
@[simp] theorem response_advance (s : State) (d : Dir) (n : Nat) : (s.advance d n).response = s.response := by cases d <;> rfl
@[simp] theorem pending_advance (s : State) (d : Dir) (n : Nat) : (s.advance d n).pending = s.pending := by cases d <;> rfl
@[simp] theorem peer_advance_other (s : State) (d : Dir) (n : Nat) : (s.advance d n).peer d.other = s.peer d.other := by
  cases d <;> rfl
@[simp] theorem peer_advance_same (s : State) (d : Dir) (n : Nat) :
    (s.advance d n).peer d = { s.peer d with stream := { (s.peer d).stream with cursor := (s.peer d).stream.cursor + n } } := by cases d <;> rfl
@[simp] theorem hsState_advance (s : State) (d e : Dir) (n : Nat) : ((s.advance d n).peer e).hsState = (s.peer e).hsState := by
  cases d <;> cases e <;> rfl
@[simp] theorem keys_advance (s : State) (d e : Dir) (n : Nat) : ((s.advance d n).peer e).keys = (s.peer e).keys := by
  cases d <;> cases e <;> rfl
@[simp] theorem avail_advance_other (s : State) (d : Dir) (n : Nat) : (s.advance d n).avail d.other = s.avail d.other := by
  cases d <;> rfl
@[simp] theorem unconsumed_advance_other (s : State) (d : Dir) (n : Nat) :
    (s.advance d n).unconsumed d.other = s.unconsumed d.other := by cases d <;> rfl
/-! ### append -/

@[simp] theorem conn_append (s : State) (d : Dir) (bs : Bytes) : (s.append d bs).conn = s.conn := by cases d <;> rfl
@[simp] theorem params_append (s : State) (d : Dir) (bs : Bytes) : (s.append d bs).params = s.params := by cases d <;> rfl
@[simp] theorem work_append (s : State) (d : Dir) (bs : Bytes) : (s.append d bs).work = s.work := by cases d <;> rfl
@[simp] theorem response_append (s : State) (d : Dir) (bs : Bytes) : (s.append d bs).response = s.response := by cases d <;> rfl
@[simp] theorem pending_append (s : State) (d : Dir) (bs : Bytes) : (s.append d bs).pending = s.pending := by cases d <;> rfl
@[simp] theorem peer_append_other (s : State) (d : Dir) (bs : Bytes) : (s.append d bs).peer d.other = s.peer d.other := by
  cases d <;> rfl
@[simp] theorem peer_append_same (s : State) (d : Dir) (bs : Bytes) :
    (s.append d bs).peer d = { s.peer d with stream := { (s.peer d).stream with buf := (s.peer d).stream.buf ++ bs } } := by cases d <;> rfl
@[simp] theorem hsState_append (s : State) (d e : Dir) (bs : Bytes) : ((s.append d bs).peer e).hsState = (s.peer e).hsState := by
  cases d <;> cases e <;> rfl
@[simp] theorem keys_append (s : State) (d e : Dir) (bs : Bytes) : ((s.append d bs).peer e).keys = (s.peer e).keys := by
  cases d <;> cases e <;> rfl
@[simp] theorem avail_append_other (s : State) (d : Dir) (bs : Bytes) : (s.append d bs).avail d.other = s.avail d.other := by
  cases d <;> rfl
@[simp] theorem unconsumed_append_other (s : State) (d : Dir) (bs : Bytes) :
    (s.append d bs).unconsumed d.other = s.unconsumed d.other := by cases d <;> rfl
/-! ### emit -/

@[simp] theorem conn_emit (s : State) (e : Event) : (s.emit e).conn = s.conn := rfl
@[simp] theorem peer0_emit (s : State) (e : Event) : (s.emit e).peer0 = s.peer0 := rfl
@[simp] theorem peer1_emit (s : State) (e : Event) : (s.emit e).peer1 = s.peer1 := rfl
@[simp] theorem params_emit (s : State) (e : Event) : (s.emit e).params = s.params := rfl
@[simp] theorem work_emit (s : State) (e : Event) : (s.emit e).work = s.work := rfl
@[simp] theorem pending_emit (s : State) (e : Event) : (s.emit e).pending = s.pending := rfl
@[simp] theorem suite_emit (s : State) (e : Event) : (s.emit e).suite = s.suite := rfl
@[simp] theorem peer_emit (s : State) (e : Event) (d : Dir) : (s.emit e).peer d = s.peer d := by cases d <;> rfl
@[simp] theorem avail_emit (s : State) (e : Event) (d : Dir) : (s.emit e).avail d = s.avail d := by cases d <;> rfl
@[simp] theorem unconsumed_emit (s : State) (e : Event) (d : Dir) : (s.emit e).unconsumed d = s.unconsumed d := by cases d <;> rfl
@[simp] theorem peek_emit (s : State) (e : Event) (d : Dir) (m : Nat) : (s.emit e).peek d m = s.peek d m := by
  cases d <;> rfl
/-! ### respond -/

@[simp] theorem conn_respond (s : State) (r : ResultCode) : (s.respond r).conn = s.conn := rfl
@[simp] theorem peer0_respond (s : State) (r : ResultCode) : (s.respond r).peer0 = s.peer0 := rfl
@[simp] theorem peer1_respond (s : State) (r : ResultCode) : (s.respond r).peer1 = s.peer1 := rfl
@[simp] theorem params_respond (s : State) (r : ResultCode) : (s.respond r).params = s.params := rfl
@[simp] theorem work_respond (s : State) (r : ResultCode) : (s.respond r).work = s.work := rfl
@[simp] theorem pending_respond (s : State) (r : ResultCode) : (s.respond r).pending = s.pending := rfl
@[simp] theorem suite_respond (s : State) (r : ResultCode) : (s.respond r).suite = s.suite := rfl
@[simp] theorem peer_respond (s : State) (r : ResultCode) (d : Dir) : (s.respond r).peer d = s.peer d := by cases d <;> rfl
@[simp] theorem avail_respond (s : State) (r : ResultCode) (d : Dir) : (s.respond r).avail d = s.avail d := by cases d <;> rfl
@[simp] theorem unconsumed_respond (s : State) (r : ResultCode) (d : Dir) : (s.respond r).unconsumed d = s.unconsumed d := by cases d <;> rfl
@[simp] theorem peek_respond (s : State) (r : ResultCode) (d : Dir) (m : Nat) : (s.respond r).peek d m = s.peek d m := by
  cases d <;> rfl
/-! ### setResult -/

@[simp] theorem conn_setResult (s : State) (r : ResultCode) : (s.setResult r).conn = s.conn := rfl
@[simp] theorem peer0_setResult (s : State) (r : ResultCode) : (s.setResult r).peer0 = s.peer0 := rfl
@[simp] theorem peer1_setResult (s : State) (r : ResultCode) : (s.setResult r).peer1 = s.peer1 := rfl
@[simp] theorem params_setResult (s : State) (r : ResultCode) : (s.setResult r).params = s.params := rfl
@[simp] theorem work_setResult (s : State) (r : ResultCode) : (s.setResult r).work = s.work := rfl
@[simp] theorem pending_setResult (s : State) (r : ResultCode) : (s.setResult r).pending = s.pending := rfl
@[simp] theorem suite_setResult (s : State) (r : ResultCode) : (s.setResult r).suite = s.suite := rfl
@[simp] theorem peer_setResult (s : State) (r : ResultCode) (d : Dir) : (s.setResult r).peer d = s.peer d := by cases d <;> rfl
@[simp] theorem avail_setResult (s : State) (r : ResultCode) (d : Dir) : (s.setResult r).avail d = s.avail d := by cases d <;> rfl
@[simp] theorem unconsumed_setResult (s : State) (r : ResultCode) (d : Dir) : (s.setResult r).unconsumed d = s.unconsumed d := by cases d <;> rfl
@[simp] theorem peek_setResult (s : State) (r : ResultCode) (d : Dir) (m : Nat) : (s.setResult r).peek d m = s.peek d m := by
  cases d <;> rfl

@[simp] theorem events_emit (s : State) (e : Event) : (s.emit e).response.events = s.response.events ++ [e] := rfl
@[simp] theorem result_emit (s : State) (e : Event) : (s.emit e).response.result = s.response.result := rfl
@[simp] theorem dump_emit (s : State) (e : Event) : (s.emit e).response.dump = s.response.dump := rfl
@[simp] theorem response_respond (s : State) (r : ResultCode) :
    (s.respond r).response = { result := r, events := [], dump := [] } := rfl
@[simp] theorem events_setResult (s : State) (r : ResultCode) : (s.setResult r).response.events = s.response.events := rfl
@[simp] theorem result_setResult (s : State) (r : ResultCode) : (s.setResult r).response.result = r := rfl
@[simp] theorem dump_setResult (s : State) (r : ResultCode) : (s.setResult r).response.dump = s.response.dump := rfl

/-! ### Writes of one field -/

@[simp] theorem peer_with_conn (s : State) (x : Conn) (d : Dir) :
    State.peer { s with conn := x } d = s.peer d := by cases d <;> rfl
@[simp] theorem avail_with_conn (s : State) (x : Conn) (d : Dir) :
    State.avail { s with conn := x } d = s.avail d := by cases d <;> rfl
@[simp] theorem unconsumed_with_conn (s : State) (x : Conn) (d : Dir) :
    State.unconsumed { s with conn := x } d = s.unconsumed d := by cases d <;> rfl
@[simp] theorem peek_with_conn (s : State) (x : Conn) (d : Dir) (m : Nat) :
    State.peek { s with conn := x } d m = s.peek d m := by cases d <;> rfl
@[simp] theorem peer_with_work (s : State) (x : Work) (d : Dir) :
    State.peer { s with work := x } d = s.peer d := by cases d <;> rfl
@[simp] theorem avail_with_work (s : State) (x : Work) (d : Dir) :
    State.avail { s with work := x } d = s.avail d := by cases d <;> rfl
@[simp] theorem unconsumed_with_work (s : State) (x : Work) (d : Dir) :
    State.unconsumed { s with work := x } d = s.unconsumed d := by cases d <;> rfl
@[simp] theorem peek_with_work (s : State) (x : Work) (d : Dir) (m : Nat) :
    State.peek { s with work := x } d m = s.peek d m := by cases d <;> rfl
@[simp] theorem peer_with_pending (s : State) (x : List Request) (d : Dir) :
    State.peer { s with pending := x } d = s.peer d := by cases d <;> rfl
@[simp] theorem avail_with_pending (s : State) (x : List Request) (d : Dir) :
    State.avail { s with pending := x } d = s.avail d := by cases d <;> rfl
@[simp] theorem unconsumed_with_pending (s : State) (x : List Request) (d : Dir) :
    State.unconsumed { s with pending := x } d = s.unconsumed d := by cases d <;> rfl
@[simp] theorem peek_with_pending (s : State) (x : List Request) (d : Dir) (m : Nat) :
    State.peek { s with pending := x } d m = s.peek d m := by cases d <;> rfl
@[simp] theorem peer_with_response (s : State) (x : Response) (d : Dir) :
    State.peer { s with response := x } d = s.peer d := by cases d <;> rfl
@[simp] theorem avail_with_response (s : State) (x : Response) (d : Dir) :
    State.avail { s with response := x } d = s.avail d := by cases d <;> rfl
@[simp] theorem unconsumed_with_response (s : State) (x : Response) (d : Dir) :
    State.unconsumed { s with response := x } d = s.unconsumed d := by cases d <;> rfl
@[simp] theorem peek_with_response (s : State) (x : Response) (d : Dir) (m : Nat) :
    State.peek { s with response := x } d m = s.peek d m := by cases d <;> rfl

/-! ### Streams -/

theorem avail_eq_length (s : State) (d : Dir) : (s.unconsumed d).length = s.avail d := by
  simp [State.unconsumed, State.avail]

@[simp] theorem avail_advance_same (s : State) (d : Dir) (n : Nat) : (s.advance d n).avail d = s.avail d - n := by
  simp [State.avail]; omega

@[simp] theorem unconsumed_advance_same (s : State) (d : Dir) (n : Nat) :
    (s.advance d n).unconsumed d = (s.unconsumed d).drop n := by
  simp [State.unconsumed]

theorem avail_append_same (s : State) (d : Dir) (bs : Bytes)
    (h : (s.peer d).stream.cursor ≤ (s.peer d).stream.buf.length) :
    (s.append d bs).avail d = s.avail d + bs.length := by
  simp [State.avail]; omega

theorem unconsumed_append_same (s : State) (d : Dir) (bs : Bytes)
    (h : (s.peer d).stream.cursor ≤ (s.peer d).stream.buf.length) :
    (s.append d bs).unconsumed d = s.unconsumed d ++ bs := by
  simp [State.unconsumed, List.drop_append, Nat.sub_eq_zero_of_le h]

end Sys2Proof.Machine
end

