-- ==== Sys2Proof/Laws/Ops.lean ====
section
/-! SUPPORT. For each shared operation over the state, what it does, said once: `surface`, `flushRaw`, `raiseError`, `disable`,
`consume`, `peek`, `fetchRecord`. -/
namespace Sys2Proof.Machine

/-! ### surface -/

@[simp] theorem conn_surface (s : State) (d : Dir) : (s.surface d).conn = s.conn := by
  unfold State.surface; split <;> simp
@[simp] theorem params_surface (s : State) (d : Dir) : (s.surface d).params = s.params := by
  unfold State.surface; split <;> simp
@[simp] theorem work_surface (s : State) (d : Dir) : (s.surface d).work = s.work := by
  unfold State.surface; split <;> simp
@[simp] theorem pending_surface (s : State) (d : Dir) : (s.surface d).pending = s.pending := by
  unfold State.surface; split <;> simp
@[simp] theorem hsState_surface (s : State) (d e : Dir) : ((s.surface d).peer e).hsState = (s.peer e).hsState := by
  unfold State.surface; split <;> simp
@[simp] theorem keys_surface (s : State) (d e : Dir) : ((s.surface d).peer e).keys = (s.peer e).keys := by
  unfold State.surface; split <;> simp
@[simp] theorem peer_surface_other (s : State) (d : Dir) : (s.surface d).peer d.other = s.peer d.other := by
  unfold State.surface; split <;> simp
@[simp] theorem avail_surface_other (s : State) (d : Dir) : (s.surface d).avail d.other = s.avail d.other := by
  unfold State.surface; split <;> simp
@[simp] theorem unconsumed_surface_other (s : State) (d : Dir) : (s.surface d).unconsumed d.other = s.unconsumed d.other := by
  unfold State.surface; split <;> simp
@[simp] theorem events_surface (s : State) (d : Dir) :
    (s.surface d).response.events = s.response.events ++ rawEvents s d := by
  unfold State.surface rawEvents; split <;> simp
@[simp] theorem result_surface (s : State) (d : Dir) : (s.surface d).response.result = s.response.result := by
  unfold State.surface; split <;> simp
@[simp] theorem dump_surface (s : State) (d : Dir) : (s.surface d).response.dump = s.response.dump := by
  unfold State.surface; split <;> simp
@[simp] theorem avail_surface_same (s : State) (d : Dir) : (s.surface d).avail d = 0 := by
  unfold State.surface; split <;> simp_all
@[simp] theorem buf_surface (s : State) (d e : Dir) : ((s.surface d).peer e).stream.buf = (s.peer e).stream.buf := by
  unfold State.surface; split
  · rcases eq_or_eq_other d e with rfl | rfl <;> simp
  · rfl

/-- Surfacing a direction whose cursor is inside its buffer moves the cursor to the end (R32, R52). -/
theorem cursor_surface_same (s : State) (d : Dir) (h : (s.peer d).stream.cursor ≤ (s.peer d).stream.buf.length) :
    ((s.surface d).peer d).stream.cursor = (s.peer d).stream.buf.length := by
  unfold State.surface
  split
  · simp only [State.avail, peer_advance_same, peer_emit]; omega
  · simp only [State.avail] at *; omega

/-! ### raiseError and disable -/

@[simp] theorem peer_raiseError (s : State) (d : Dir) (e : FatalError) (d' : Dir) : (s.raiseError d e).peer d' = s.peer d' := by
  cases d' <;> rfl
@[simp] theorem avail_raiseError (s : State) (d : Dir) (e : FatalError) (d' : Dir) : (s.raiseError d e).avail d' = s.avail d' := by
  cases d' <;> rfl
@[simp] theorem unconsumed_raiseError (s : State) (d : Dir) (e : FatalError) (d' : Dir) :
    (s.raiseError d e).unconsumed d' = s.unconsumed d' := by cases d' <;> rfl
@[simp] theorem events_raiseError (s : State) (d : Dir) (e : FatalError) :
    (s.raiseError d e).response.events = s.response.events ++ [.error d e.kind.code e.detail] := rfl
@[simp] theorem conn_raiseError (s : State) (d : Dir) (e : FatalError) :
    (s.raiseError d e).conn =
      { s.conn with disabled := true, errorKind := e.kind.code, errorDetail := e.detail, errorDir := d } := rfl
@[simp] theorem params_raiseError (s : State) (d : Dir) (e : FatalError) : (s.raiseError d e).params = s.params := rfl
@[simp] theorem work_raiseError (s : State) (d : Dir) (e : FatalError) : (s.raiseError d e).work = s.work := rfl
@[simp] theorem pending_raiseError (s : State) (d : Dir) (e : FatalError) : (s.raiseError d e).pending = s.pending := rfl

@[simp] theorem conn_disable (s : State) (d : Dir) (e : FatalError) :
    (s.disable d e).conn =
      { s.conn with disabled := true, errorKind := e.kind.code, errorDetail := e.detail, errorDir := d } := by
  simp [State.disable, State.flushRaw]
@[simp] theorem params_disable (s : State) (d : Dir) (e : FatalError) : (s.disable d e).params = s.params := by
  simp [State.disable, State.flushRaw]
@[simp] theorem work_disable (s : State) (d : Dir) (e : FatalError) : (s.disable d e).work = s.work := by
  simp [State.disable, State.flushRaw]
@[simp] theorem pending_disable (s : State) (d : Dir) (e : FatalError) : (s.disable d e).pending = s.pending := by
  simp [State.disable, State.flushRaw]
@[simp] theorem hsState_disable (s : State) (d : Dir) (e : FatalError) (d' : Dir) :
    ((s.disable d e).peer d').hsState = (s.peer d').hsState := by
  simp [State.disable, State.flushRaw]
@[simp] theorem keys_disable (s : State) (d : Dir) (e : FatalError) (d' : Dir) :
    ((s.disable d e).peer d').keys = (s.peer d').keys := by
  simp [State.disable, State.flushRaw]
@[simp] theorem buf_disable (s : State) (d : Dir) (e : FatalError) (d' : Dir) :
    ((s.disable d e).peer d').stream.buf = (s.peer d').stream.buf := by
  simp [State.disable, State.flushRaw]
@[simp] theorem avail_disable (s : State) (d : Dir) (e : FatalError) (d' : Dir) : (s.disable d e).avail d' = 0 := by
  rcases eq_or_eq_other d d' with rfl | rfl
  · have h := avail_surface_other ((s.raiseError d' e).surface d') d'.other
    simp only [other_other] at h
    simp [State.disable, State.flushRaw, h]
  · simp [State.disable, State.flushRaw]
/-- The events of a disable (R262, R264): the error, then the unconsumed bytes of the failing direction, then of the other. -/
@[simp] theorem events_disable (s : State) (d : Dir) (e : FatalError) :
    (s.disable d e).response.events =
      s.response.events ++ ([.error d e.kind.code e.detail] ++ (rawEvents s d ++ rawEvents s d.other)) := by
  simp [State.disable, State.flushRaw, rawEvents]

@[simp] theorem cursor_surface (s : State) (d : Dir) :
    ((s.surface d).peer d).stream.cursor = (s.peer d).stream.cursor + s.avail d := by
  unfold State.surface
  split
  · simp
  · simp; omega

/-- Everything that disabling does (R262, R264). -/
theorem disable_disabledBy (s : State) (d : Dir) (e : FatalError) :
    DisabledBy s (s.disable d e) d e.kind.code e.detail where
  conn := conn_disable s d e
  hsState := hsState_disable s d e
  keys := keys_disable s d e
  buf := buf_disable s d e
  cursor e' := by
    rcases eq_or_eq_other d e' with rfl | rfl
    · have h := peer_surface_other ((s.raiseError e' e).surface e') e'.other
      simp only [other_other] at h
      simp [State.disable, State.flushRaw, h]
    · simp [State.disable, State.flushRaw]
  events := by simp
  result := by simp [State.disable, State.flushRaw, State.raiseError]
  dump := by simp [State.disable, State.flushRaw, State.raiseError]
  params := params_disable s d e
  work := work_disable s d e
  pending := pending_disable s d e

/-- No error kind has the code of "no error" (R260). -/
theorem code_ne_zero (k : ErrorKind) : k.code ≠ 0 := by cases k <;> decide

/-! ### consume, peek, fetch -/

/-- `Consume` either advances the cursor inside the buffer or is the fault of R52. -/
theorem consume_cases (s : State) (d : Dir) (n : Nat) :
    (n ≤ s.avail d ∧ s.consume d n = .next (s.advance d n)) ∨
    (s.avail d < n ∧ s.consume d n = .fault .consumeBeyondAvail) := by
  unfold State.consume
  split
  · exact .inl ⟨‹_›, rfl⟩
  · exact .inr ⟨by omega, rfl⟩

theorem peek_eq_some {s : State} {d : Dir} {n : Nat} {bs : Bytes} (h : s.peek d n = some bs) :
    n ≤ s.avail d ∧ bs = (s.unconsumed d).take n ∧ bs.length = n := by
  unfold State.peek at h
  split at h
  · cases h
    refine ⟨‹_›, rfl, ?_⟩
    rw [List.length_take, avail_eq_length]; omega
  · cases h

/-- A fetched record is the first bytes of its stream, as many as its header says (R70, R130). -/
theorem fetchRecord_eq_some {s : State} {d : Dir} {r : Bytes} (h : fetchRecord d s = some r) :
    5 ≤ r.length ∧ r.length ≤ s.avail d ∧ r = (s.unconsumed d).take r.length ∧
      r.length = 5 + beNat ((r.take 5).drop 3) := by
  unfold fetchRecord at h
  cases h5 : s.peek d 5 with
  | none => simp [h5] at h
  | some hdr =>
    simp only [h5, Option.bind_some] at h
    obtain ⟨_, hh, _⟩ := peek_eq_some h5
    obtain ⟨h1, h2, h3⟩ := peek_eq_some h
    have ht : r.take 5 = hdr := by
      rw [h2, List.take_take, hh, Nat.min_eq_left (by omega)]
    exact ⟨by omega, by omega, by rw [h3]; exact h2, by rw [ht]; exact h3⟩

/-- The record at the head of a stream depends on the stream alone. -/
theorem fetchRecord_congr {s t : State} {d : Dir} (h : (t.peer d).stream = (s.peer d).stream) :
    fetchRecord d t = fetchRecord d s := by
  have hp (n : Nat) : t.peek d n = s.peek d n := by
    unfold State.peek State.avail State.unconsumed
    rw [h]
  simp only [fetchRecord, hp]

end Sys2Proof.Machine
end

