-- ==== Sys2Proof/Laws/Rules.lean ====
section
/-! SUPPORT. What every rule leaves alone and what it can only move one way, said once for each rule. -/
namespace Sys2Proof.Machine

/-- What no rule that processes a record, a message, an extension or a list entry changes: streams, parameters, requests, the error
and end registers; and events are only added. -/
structure RuleFrame (s t : State) : Prop where
  stream : ∀ d, (t.peer d).stream = (s.peer d).stream
  params : t.params = s.params
  pending : t.pending = s.pending
  disabled : t.conn.disabled = s.conn.disabled
  closed : t.conn.closed = s.conn.closed
  errorKind : t.conn.errorKind = s.conn.errorKind
  errorDetail : t.conn.errorDetail = s.conn.errorDetail
  errorDir : t.conn.errorDir = s.conn.errorDir
  result : t.response.result = s.response.result
  dump : t.response.dump = s.response.dump
  events : ∃ es, t.response.events = s.response.events ++ es

namespace RuleFrame

theorem refl (s : State) : RuleFrame s s := by constructor <;> first | exact ⟨[], by simp⟩ | simp

theorem trans {s t u : State} (h : RuleFrame s t) (k : RuleFrame t u) : RuleFrame s u where
  stream d := (k.stream d).trans (h.stream d)
  params := k.params.trans h.params
  pending := k.pending.trans h.pending
  disabled := k.disabled.trans h.disabled
  closed := k.closed.trans h.closed
  errorKind := k.errorKind.trans h.errorKind
  errorDetail := k.errorDetail.trans h.errorDetail
  errorDir := k.errorDir.trans h.errorDir
  result := k.result.trans h.result
  dump := k.dump.trans h.dump
  events := by
    obtain ⟨es, he⟩ := h.events
    obtain ⟨fs, hf⟩ := k.events
    exact ⟨es ++ fs, by rw [hf, he, List.append_assoc]⟩

theorem avail {s t : State} (h : RuleFrame s t) (d : Dir) : t.avail d = s.avail d := by
  simp [State.avail, h.stream d]

theorem unconsumed {s t : State} (h : RuleFrame s t) (d : Dir) : t.unconsumed d = s.unconsumed d := by
  simp [State.unconsumed, h.stream d]

theorem fetchRecord {s t : State} (h : RuleFrame s t) (d : Dir) :
    Machine.fetchRecord d t = Machine.fetchRecord d s := fetchRecord_congr (h.stream d)

theorem emit (s : State) (e : Event) : RuleFrame s (s.emit e) := by
  constructor <;> first | exact ⟨[e], rfl⟩ | simp

theorem setHs (s : State) (d : Dir) (h : HandshakeState) : RuleFrame s (s.setHs d h) := by
  constructor <;> first | exact ⟨[], by simp⟩ | simp

theorem setKeys (s : State) (d : Dir) (k : KeyBank) : RuleFrame s (s.setKeys d k) := by
  constructor <;> first | exact ⟨[], by simp⟩ | simp

theorem withWork (s : State) (w : Work) : RuleFrame s { s with work := w } := by
  constructor <;> first | exact ⟨[], by simp⟩ | simp

theorem withConn (s : State) (c : Conn) (hd : c.disabled = s.conn.disabled := by rfl)
    (hc : c.closed = s.conn.closed := by rfl) (hk : c.errorKind = s.conn.errorKind := by rfl)
    (ht : c.errorDetail = s.conn.errorDetail := by rfl) (he : c.errorDir = s.conn.errorDir := by rfl) :
    RuleFrame s { s with conn := c } := by
  constructor <;> first | assumption | exact ⟨[], by simp⟩ | simp

end RuleFrame

/-! ### The frame of each rule -/

theorem premasterRecover_frame (enc : Bytes) (s : State) : RuleFrame s (premasterRecover enc s).2 := by
  unfold premasterRecover
  split
  · exact .refl s
  · split
    · exact .withConn s _
    · exact .refl s

theorem loadKeys_frame (cls : VersionClass) (ms : Bytes) (p : CipherSuiteParams) (s : State) :
    RuleFrame s (loadKeys cls ms p s) :=
  (RuleFrame.setKeys s _ _).trans (.setKeys _ _ _)

theorem deriveKeys_frame (cls : VersionClass) (d : Dir) (s : State) : RuleFrame s (deriveKeys cls d s) :=
  ((RuleFrame.withConn s _).trans (loadKeys_frame _ _ _ _)).trans (.emit _ _)

theorem keySchedule_frame (d : Dir) (s : State) : RuleFrame s (keySchedule d s).2 := by
  unfold keySchedule
  split <;> first | exact .refl s | exact deriveKeys_frame _ _ _

theorem acceptBody_frame (cls : VersionClass) (p : CipherSuiteParams) (d : Dir) (ty a b : Byte) (body : Bytes) (s : State) :
    RuleFrame s (acceptBody cls p d ty a b body s).2 := by
  unfold acceptBody
  split
  · exact .refl s
  · split
    · exact .refl s
    · exact (RuleFrame.setKeys s _ _).trans (.emit _ _)

theorem decrypt_frame (d : Dir) (ty a b : Byte) (payload : Bytes) (s : State) :
    RuleFrame s (decrypt d ty a b payload s).2 := by
  unfold decrypt
  split
  · exact .setKeys s _ _
  · exact (RuleFrame.setKeys s _ _).trans (acceptBody_frame _ _ _ _ _ _ _ _)

theorem hostNameEntry_frame (name : Bytes) (s : State) : RuleFrame s (hostNameEntry name s).2 := by
  unfold hostNameEntry
  split
  · exact .refl s
  · exact .withWork s _

theorem sniEntry_frame (t : Byte) (name : Bytes) (s : State) : RuleFrame s (sniEntry t name s).2 := by
  unfold sniEntry
  split
  · exact hostNameEntry_frame _ _
  · exact .refl s

theorem sniLoop_frame (n : Nat) (list : Bytes) (s : State) : RuleFrame s (sniLoop n list s).2 := by
  induction n generalizing list s with
  | zero => exact .refl s
  | succ n ih =>
    cases list with
    | nil => exact .refl s
    | cons x xs =>
      simp only [sniLoop]
      split
      · exact .refl s
      · rename_i h name rest _
        have hf := sniEntry_frame (byteAt h 0) name s
        split <;> rename_i heq <;> rw [heq] at hf
        · exact hf.trans (ih _ _)
        · exact hf
        · exact hf

theorem serverNameExt_frame (data : Bytes) (s : State) : RuleFrame s (serverNameExt data s).2 := by
  unfold serverNameExt
  split
  · exact .refl s
  · split
    · exact .refl s
    · exact (RuleFrame.withWork s _).trans (sniLoop_frame _ _ _)

theorem extensionByType_frame (t : Nat) (data : Bytes) (s : State) : RuleFrame s (extensionByType t data s).2 := by
  unfold extensionByType
  split
  · exact serverNameExt_frame _ _
  · exact .withWork s _
  · exact .refl s

theorem extensionsLoop_frame (n : Nat) (ext : Bytes) (s : State) : RuleFrame s (extensionsLoop n ext s).2 := by
  induction n generalizing ext s with
  | zero => exact .refl s
  | succ n ih =>
    cases ext with
    | nil => exact .refl s
    | cons x xs =>
      simp only [extensionsLoop]
      split
      · exact .refl s
      · rename_i h data rest _
        have hf := extensionByType_frame (beNat (h.take 2)) data s
        split <;> rename_i heq <;> rw [heq] at hf
        · exact hf.trans (ih _ _)
        · exact hf
        · exact hf

theorem commitClientHello_frame (f : ClientHelloFields) (s : State) : RuleFrame s (commitClientHello f s) :=
  (RuleFrame.withConn s _).trans (.setHs _ _ _)

theorem clientHelloFields_frame (f : ClientHelloFields) (s : State) : RuleFrame s (clientHelloFields f s).2 := by
  have hf := (RuleFrame.withWork s _).trans (extensionsLoop_frame (f.ext.getD []).length (f.ext.getD []) (startWork s))
  unfold clientHelloFields
  split <;> rename_i heq <;> rw [heq] at hf
  · exact hf.trans (commitClientHello_frame _ _)
  · exact hf
  · exact hf

theorem clientHello_frame (d : Dir) (body : Bytes) (s : State) : RuleFrame s (clientHello d body s).2 := by
  unfold clientHello
  split
  · exact .refl s
  · split
    · exact .refl s
    · split
      · exact .refl s
      · exact clientHelloFields_frame _ _

theorem populateServerHello_frame (f : ServerHelloFields) (s : State) : RuleFrame s (populateServerHello f s) :=
  .withConn s _

theorem acceptServerHello_frame (l : LoadedSuite) (s : State) : RuleFrame s (acceptServerHello l s) :=
  (RuleFrame.withConn s _).trans (.setHs _ _ _)

theorem serverHello_frame (d : Dir) (body : Bytes) (s : State) : RuleFrame s (serverHello d body s).2 := by
  unfold serverHello
  split
  · exact .refl s
  · split
    · exact .refl s
    · split
      · exact .refl s
      · split
        · exact populateServerHello_frame _ _
        · exact (populateServerHello_frame _ _).trans (acceptServerHello_frame _ _)

theorem clientKeyExchange_frame (d : Dir) (body : Bytes) (s : State) : RuleFrame s (clientKeyExchange d body s).2 := by
  unfold clientKeyExchange
  split
  · exact .refl s
  · split
    · exact .refl s
    · split
      · exact .refl s
      · exact (RuleFrame.withConn s _).trans (premasterRecover_frame _ _)

theorem newSessionTicket_frame (d : Dir) (body : Bytes) (s : State) : RuleFrame s (newSessionTicket d body s).2 := by
  unfold newSessionTicket
  split
  · exact .refl s
  · split
    · exact .refl s
    · exact .withConn s _

theorem handshakeMessage_frame (d : Dir) (t : Byte) (body : Bytes) (s : State) :
    RuleFrame s (handshakeMessage d t body s).2 := by
  unfold handshakeMessage
  split
  · exact clientHello_frame _ _ _
  · exact serverHello_frame _ _ _
  · exact newSessionTicket_frame _ _ _
  · exact clientKeyExchange_frame _ _ _
  all_goals exact .refl s

theorem messagesLoop_frame (d : Dir) (n : Nat) (payload : Bytes) (s : State) :
    RuleFrame s (messagesLoop d n payload s).2 := by
  induction n generalizing payload s with
  | zero => exact .refl s
  | succ n ih =>
    cases payload with
    | nil => exact .refl s
    | cons x xs =>
      simp only [messagesLoop]
      split
      · exact .refl s
      · rename_i h body rest _
        have hf := handshakeMessage_frame d (byteAt h 0) body s
        split <;> rename_i heq <;> rw [heq] at hf
        · exact (hf.trans (.emit _ _)).trans (ih _ _)
        · exact hf
        · exact hf

theorem handshakePlain_frame (d : Dir) (payload : Bytes) (s : State) : RuleFrame s (handshakePlain d payload s).2 :=
  messagesLoop_frame _ _ _ _

theorem handshakeEnc_frame (d : Dir) (a b : Byte) (payload : Bytes) (s : State) :
    RuleFrame s (handshakeEnc d a b payload s).2 := by
  have hf := decrypt_frame d 22 a b payload s
  unfold handshakeEnc
  split <;> rename_i heq <;> rw [heq] at hf
  · split
    · exact hf.trans (.setHs _ _ _)
    · exact hf
  · exact hf
  · exact hf

theorem ccsReady_frame (d : Dir) (s : State) : RuleFrame s (ccsReady d s).2 := by
  have hf := keySchedule_frame d s
  unfold ccsReady
  split
  · exact .emit _ _
  · split <;> rename_i heq <;> rw [heq] at hf
    · exact (hf.trans (.withConn _ _)).trans (.emit _ _)
    · exact hf
    · exact hf

theorem changeCipherSpec_frame (d : Dir) (s : State) : RuleFrame s (changeCipherSpec d s).2 := by
  unfold changeCipherSpec
  split
  · exact (RuleFrame.setHs s _ _).trans (ccsReady_frame _ _)
  · split <;> exact .setHs s _ _

theorem applicationData_frame (d : Dir) (a b : Byte) (payload : Bytes) (s : State) :
    RuleFrame s (applicationData d a b payload s).2 := by
  unfold applicationData
  split
  · split
    · exact decrypt_frame _ _ _ _ _ _
    · exact .refl s
  · split <;> exact .refl s

theorem dispatch_frame (d : Dir) (t a b : Byte) (payload : Bytes) (s : State) :
    RuleFrame s (dispatch d t a b payload s).2 := by
  unfold dispatch
  split
  · split
    · exact handshakeEnc_frame _ _ _ _ _
    · exact handshakePlain_frame _ _ _
  · exact changeCipherSpec_frame _ _
  · split
    · exact decrypt_frame _ _ _ _ _ _
    · exact .emit _ _
  · exact applicationData_frame _ _ _ _ _
  · exact .refl s

end Sys2Proof.Machine
end

