-- ==== Sys2Proof/Laws/Loops.lean ====
section
/-! SUPPORT. The loops over messages, extensions and list entries: what they can answer, and that enough fuel is enough; and what `need`,
the key schedule and the decryption of a record can answer. -/
namespace Sys2Proof.Machine

/-! ### need -/

theorem need_append {n : Nat} {a : Bytes} (rest : Bytes) (h : a.length = n) : need n (a ++ rest) = some (a, rest) := by
  subst h; simp [need]

/-- A vector after its length prefix is taken whole (R92). -/
theorem needVector_append (w : Nat) (a rest : Bytes) (h : a.length < 256 ^ w) :
    needVector w (encBe w a.length ++ (a ++ rest)) = some (a, rest) := by
  unfold needVector
  rw [need_append _ (Laws.length_encBe _ _), Option.bind_some, beNat_encBe h, need_append _ rfl]

/-- A vector that ends before its length prefix says is not there (R92). -/
theorem needVector_eq_none {w : Nat} {bs : Bytes} (h : bs.length < w + beNat (bs.take w)) : needVector w bs = none := by
  by_cases hw : w ≤ bs.length
  · have hn : need w bs = some (bs.take w, bs.drop w) := if_pos hw
    rw [needVector, hn, Option.bind_some]
    exact if_neg (by simp only [List.length_drop]; omega)
  · have hn : need w bs = none := if_neg hw
    rw [needVector, hn]
    rfl

/-- A ClientHello body after its version and random (R76): three vectors and the extensions block. -/
theorem parseClientHello_fixed {fixed : Bytes} (bs : Bytes) (h : fixed.length = 34) :
    parseClientHello (fixed ++ bs) =
      (needVector 1 bs).bind fun sid => (needVector 2 sid.2).bind fun suites => (needVector 1 suites.2).bind fun methods =>
        (parseExtensionsBlock methods.2).map fun ext =>
          { random := fixed.drop 2, sessionId := sid.1, compressionMethods := methods.1, ext := ext } := by
  have hver : need 2 (fixed ++ bs) = some (fixed.take 2, fixed.drop 2 ++ bs) := by
    simpa [← List.append_assoc] using need_append (n := 2) (a := fixed.take 2) (fixed.drop 2 ++ bs) (by simp [h])
  simp only [parseClientHello, Option.bind_eq_bind, hver, need_append _ (show (fixed.drop 2).length = 32 by simp [h]),
    Option.bind_some, Option.map_eq_bind, Function.comp_def]
  rfl

/-! ### What the loops answer -/

theorem hostNameEntry_done (n s) : (hostNameEntry n s).1 = .done := by unfold hostNameEntry; split <;> rfl

theorem sniEntry_done (t n s) : (sniEntry t n s).1 = .done := by unfold sniEntry; split; exact hostNameEntry_done _ _; rfl

/-- The list loop ends or is malformed (R183). -/
theorem sniLoop_done_or_malformed (n l s) : (sniLoop n l s).1 = .done ∨ (sniLoop n l s).1 = .fatal .chMalformed := by
  induction n generalizing l s with
  | zero => exact .inl rfl
  | succ n ih =>
    match l with
    | [] => exact .inl rfl
    | x :: xs =>
      simp only [sniLoop]
      split
      · exact .inr rfl
      · rename_i h name rest _
        have := sniEntry_done (byteAt h 0) name s
        split <;> rename_i he <;> rw [he] at this
        · exact ih _ _
        · cases this
        · cases this

theorem serverNameExt_done_or_malformed (x s) : (serverNameExt x s).1 = .done ∨ (serverNameExt x s).1 = .fatal .chMalformed := by
  unfold serverNameExt
  split
  · exact .inl rfl
  · split
    · exact .inr rfl
    · exact sniLoop_done_or_malformed _ _ _

theorem extensionByType_done_or_malformed (t x s) : (extensionByType t x s).1 = .done ∨ (extensionByType t x s).1 = .fatal .chMalformed := by
  unfold extensionByType
  split
  · exact serverNameExt_done_or_malformed _ _
  · exact .inl rfl
  · exact .inl rfl

/-- The extension loop ends or is malformed (R171). -/
theorem extensionsLoop_done_or_malformed (n l s) : (extensionsLoop n l s).1 = .done ∨ (extensionsLoop n l s).1 = .fatal .chMalformed := by
  induction n generalizing l s with
  | zero => exact .inl rfl
  | succ n ih =>
    match l with
    | [] => exact .inl rfl
    | x :: xs =>
      simp only [extensionsLoop]
      split
      · exact .inr rfl
      · rename_i h data rest _
        have := extensionByType_done_or_malformed (beNat (h.take 2)) data s
        split <;> rename_i he <;> rw [he] at this
        · exact ih _ _
        · simp at this
        · exact this

/-- No message waits: only records do (R145, R149, R164). -/
theorem handshakeMessage_ne_wait (d t b s) : (handshakeMessage d t b s).1 ≠ .wait := by
  unfold handshakeMessage
  split
  · unfold clientHello
    split; simp
    split; simp
    split; simp
    rename_i f _
    unfold clientHelloFields
    have := extensionsLoop_done_or_malformed (f.ext.getD []).length (f.ext.getD []) (startWork s)
    split <;> rename_i he <;> rw [he] at this <;> simp at this ⊢
  · unfold serverHello
    split; simp
    split; simp
    split; simp
    split <;> simp
  · unfold newSessionTicket
    split; simp
    split <;> simp
  · unfold clientKeyExchange
    split; simp
    split; simp
    split; simp
    unfold premasterRecover
    split; simp
    split <;> simp
  all_goals simp [skipMessage]

/-! ### Fuel -/

/-- Any fuel that covers the payload gives the same run of the message loop (R160). -/
theorem messagesLoop_fuel (d : Dir) (n m : Nat) (p : Bytes) (s : State) (hn : p.length ≤ n) (hm : p.length ≤ m) :
    messagesLoop d n p s = messagesLoop d m p s := by
  induction n generalizing m p s with
  | zero => 
    have : p = [] := List.length_eq_zero_iff.mp (by omega)
    subst this
    cases m <;> rfl
  | succ n ih =>
    match p with
    | [] => cases m <;> rfl
    | x :: xs =>
      cases m with
      | zero => simp at hm
      | succ m =>
        simp only [messagesLoop]
        cases e : splitFrame 4 1 (x :: xs) with
        | error _ => rfl
        | ok q =>
          obtain ⟨h, b, r⟩ := q
          obtain ⟨h1, h2, h3⟩ := splitFrame_ok e
          have hl : r.length + 4 ≤ xs.length + 1 := by
            have := congrArg List.length h1; simp only [List.length_append, List.length_cons, h2] at this; omega
          simp only [List.length_cons] at hn hm
          have hx : ∀ s', messagesLoop d n r s' = messagesLoop d m r s' := fun s' => ih _ _ _ (by omega) (by omega)
          simp only [hx]

/-- Any fuel that covers the extensions gives the same run (R171). -/
theorem extensionsLoop_fuel (n m : Nat) (p : Bytes) (s : State) (hn : p.length ≤ n) (hm : p.length ≤ m) :
    extensionsLoop n p s = extensionsLoop m p s := by
  induction n generalizing m p s with
  | zero => 
    have : p = [] := List.length_eq_zero_iff.mp (by omega)
    subst this
    cases m <;> rfl
  | succ n ih =>
    match p with
    | [] => cases m <;> rfl
    | x :: xs =>
      cases m with
      | zero => simp at hm
      | succ m =>
        simp only [extensionsLoop]
        cases e : splitFrame 4 2 (x :: xs) with
        | error _ => rfl
        | ok q =>
          obtain ⟨h, b, r⟩ := q
          obtain ⟨h1, h2, h3⟩ := splitFrame_ok e
          have hl : r.length + 4 ≤ xs.length + 1 := by
            have := congrArg List.length h1; simp only [List.length_append, List.length_cons, h2] at this; omega
          simp only [List.length_cons] at hn hm
          have hx : ∀ s', extensionsLoop n r s' = extensionsLoop m r s' := fun s' => ih _ _ _ (by omega) (by omega)
          simp only [hx]

/-- Any fuel that covers the list gives the same run (R183). -/
theorem sniLoop_fuel (n m : Nat) (p : Bytes) (s : State) (hn : p.length ≤ n) (hm : p.length ≤ m) :
    sniLoop n p s = sniLoop m p s := by
  induction n generalizing m p s with
  | zero => 
    have : p = [] := List.length_eq_zero_iff.mp (by omega)
    subst this
    cases m <;> rfl
  | succ n ih =>
    match p with
    | [] => cases m <;> rfl
    | x :: xs =>
      cases m with
      | zero => simp at hm
      | succ m =>
        simp only [sniLoop]
        cases e : splitFrame 3 1 (x :: xs) with
        | error _ => rfl
        | ok q =>
          obtain ⟨h, b, r⟩ := q
          obtain ⟨h1, h2, h3⟩ := splitFrame_ok e
          have hl : r.length + 3 ≤ xs.length + 1 := by
            have := congrArg List.length h1; simp only [List.length_append, List.length_cons, h2] at this; omega
          simp only [List.length_cons] at hn hm
          have hx : ∀ s', sniLoop n r s' = sniLoop m r s' := fun s' => ih _ _ _ (by omega) (by omega)
          simp only [hx]

/-! ### The key schedule and decryption -/

/-- The key schedule derives keys, or refuses the version and writes nothing (R203, R210). -/
theorem keySchedule_cases (d : Dir) (s : State) :
    (∃ cls, versionClass s.conn.version = cls ∧ (cls = .sslv3 ∨ cls = .tls10 ∨ cls = .tls11) ∧
      keySchedule d s = (.done, deriveKeys cls d s)) ∨
    (versionClass s.conn.version = .tls12 ∧ keySchedule d s = (.fatal .tls12Version, s)) ∨
    (versionClass s.conn.version = .other ∧ keySchedule d s = (.fatal .otherVersion, s)) := by
  unfold keySchedule
  cases h : versionClass s.conn.version
  · exact .inl ⟨_, rfl, .inl rfl, rfl⟩
  · exact .inl ⟨_, rfl, .inr (.inl rfl), rfl⟩
  · exact .inl ⟨_, rfl, .inr (.inr rfl), rfl⟩
  · exact .inr (.inl ⟨rfl, rfl⟩)
  · exact .inr (.inr ⟨rfl, rfl⟩)

/-- Decrypting a record raises with only the key bank of its direction written, or delivers the fragment with the counter one higher
(R230). -/
theorem decrypt_cases (d : Dir) (ty a b : Byte) (payload : Bytes) (s : State) :
    (∃ k e, decrypt d ty a b payload s = (.fatal e, s.setKeys d k)) ∨
    (∃ k frag, k.seq ≠ BitVec.allOnes 64 ∧
      decrypt d ty a b payload s =
        (.done, State.emit ((s.setKeys d k).setKeys d { k with seq := k.seq + 1 }) (.decrypted d ty frag))) := by
  unfold decrypt
  split
  · exact .inl ⟨_, _, rfl⟩
  · rename_i k body _
    unfold acceptBody
    simp only [peer_setKeys_same, params_setKeys]
    split
    · exact .inl ⟨_, _, rfl⟩
    · split
      · exact .inl ⟨_, _, rfl⟩
      · exact .inr ⟨k, _, ‹_›, rfl⟩

end Sys2Proof.Machine
end

