-- ==== Sys2Proof/Laws/Steps.lean ====
section
/-! SUPPORT. What one step of a direction can do, said once (R130, R131). -/
namespace Sys2Proof.Machine

/-- The outcomes of running a record, for a rule that leaves the streams alone: passthrough, not buffered, consumed, held,
disabled. -/
theorem runRecord_cases {d : Dir} {n : Nat} {rule : State → RuleResult × State} {s : State}
    (h : RuleFrame s (rule s).2) :
    (s.conn.disabled = true ∧ runRecord d n rule s = .next (passthrough d s)) ∨
    (s.conn.disabled = false ∧ s.avail d < n ∧ runRecord d n rule s = .next (false, s)) ∨
    (s.conn.disabled = false ∧ n ≤ s.avail d ∧
      ((∃ t, rule s = (.done, t) ∧ runRecord d n rule s = .next (true, t.advance d n)) ∨
       (∃ t, rule s = (.wait, t) ∧ runRecord d n rule s = .next (false, t)) ∨
       (∃ e t, rule s = (.fatal e, t) ∧ runRecord d n rule s = .next (true, t.disable d e)))) := by
  unfold runRecord
  by_cases hd : s.conn.disabled = true
  · exact .inl ⟨hd, by simp [hd]⟩
  · have hd' : s.conn.disabled = false := by simpa using hd
    by_cases hn : s.avail d < n
    · exact .inr (.inl ⟨hd', hn, by simp [hd', hn]⟩)
    · refine .inr (.inr ⟨hd', by omega, ?_⟩)
      simp only [hd', Bool.false_eq_true, if_false, hn]
      cases hr : rule s with
      | mk r t =>
        have ha : n ≤ t.avail d := by
          have := h.avail d
          rw [hr] at this
          simp only at this
          omega
        cases r with
        | done => exact .inl ⟨t, rfl, by simp [finishRecord, State.consume, ha]⟩
        | wait => exact .inr (.inl ⟨t, rfl, rfl⟩)
        | fatal e => exact .inr (.inr ⟨e, t, rfl, rfl⟩)

/-- A buffered record in a running engine is settled by its rule alone. -/
theorem runRecord_dispatched {d : Dir} {n : Nat} {rule : State → RuleResult × State} {s : State}
    (hd : s.conn.disabled = false) (hn : n ≤ s.avail d) : runRecord d n rule s = finishRecord d n (rule s) := by
  simp [runRecord, hd, Nat.not_lt.mpr hn]

theorem finishRecord_done {d : Dir} {n : Nat} {t : State} (hn : n ≤ t.avail d) :
    finishRecord d n (.done, t) = .next (true, t.advance d n) := by
  simp [finishRecord, State.consume, hn]

/-- A buffered record whose rule is done is consumed (R130). -/
theorem runRecord_done {d : Dir} {n : Nat} {rule : State → RuleResult × State} {s t : State} (hd : s.conn.disabled = false)
    (hn : n ≤ s.avail d) (hr : rule s = (.done, t)) (ha : t.avail d = s.avail d) :
    stateOf (runRecord d n rule s) = .next (t.advance d n) := by
  rw [runRecord_dispatched hd hn, hr, finishRecord_done (by omega)]
  rfl

/-- A buffered record whose rule waits stays at the head of its stream (R130, R146). -/
theorem runRecord_wait {d : Dir} {n : Nat} {rule : State → RuleResult × State} {s t : State} (hd : s.conn.disabled = false)
    (hn : n ≤ s.avail d) (hr : rule s = (.wait, t)) : stateOf (runRecord d n rule s) = .next t := by
  rw [runRecord_dispatched hd hn, hr]
  rfl

/-- A buffered record whose rule raises disables the engine (R130, R262). -/
theorem runRecord_fatal {d : Dir} {n : Nat} {rule : State → RuleResult × State} {s t : State} {e : FatalError}
    (hd : s.conn.disabled = false) (hn : n ≤ s.avail d) (hr : rule s = (.fatal e, t)) :
    stateOf (runRecord d n rule s) = .next (t.disable d e) := by
  rw [runRecord_dispatched hd hn, hr]
  rfl

/-- `StepDir` on a running engine without a whole record is `Blocked` and writes nothing (R130, R261). -/
theorem stepDir_of_needMoreData {d : Dir} {s : State} (hd : s.conn.disabled = false) (h : fetchRecord d s = none) :
    stepDir d s = .next (false, s) := by
  simp [stepDir, hd, h]

/-- `StepDir` on a running engine with a whole record settles that record (R130). -/
theorem stepDir_of_record {d : Dir} {s : State} {r : Bytes} (hd : s.conn.disabled = false) (h : fetchRecord d s = some r) :
    stepDir d s =
      finishRecord d r.length (dispatch d (byteAt r 0) (byteAt r 1) (byteAt r 2) (r.drop 5) s) := by
  simp only [stepDir, hd, h, Bool.false_eq_true, if_false]
  exact runRecord_dispatched hd (fetchRecord_eq_some h).2.1

/-- `StepDir` on a disabled engine is passthrough (R131). -/
theorem stepDir_of_disabled {d : Dir} {s : State} (hd : s.conn.disabled = true) :
    stepDir d s = .next (passthrough d s) := by
  simp [stepDir, hd]

end Sys2Proof.Machine
end

