-- ==== Sys2Proof/Tests/Slice0.lean ====
section
/-! SUPPORT. Tests on fixed values (well-formedness, decoding, single steps against the vectors of spec/95_test_vectors), and for every
statement that has hypotheses a witness: a concrete state and operands that meet them. -/
namespace Sys2Proof.Tests
open Sys2Proof.Machine

/-! ### WellFormed: an ill-formed term for each check -/

theorem test_wf_record_too_long (bs : Bytes) (h : bs.length = 65536) :
    (Instr.ccs .clientToServer 3 1 bs).wellFormed = false := by simp [Instr.wellFormed, h]
theorem test_wf_record_longest (bs : Bytes) (h : bs.length = 65535) :
    (Instr.appData .clientToServer 3 1 bs).wellFormed = true := by simp [Instr.wellFormed, h]
theorem test_wf_illegal_listed_type :
    ∀ t ∈ ([0x14, 0x15, 0x16, 0x17] : List Byte), (Instr.recordIllegal .clientToServer t 3 1 []).wellFormed = false := by decide
theorem test_wf_illegal_too_long (bs : Bytes) (h : bs.length = 65536) :
    (Instr.recordIllegal .clientToServer 0x18 3 1 bs).wellFormed = false := by simp [Instr.wellFormed, h]
theorem test_wf_message_too_long (bs : Bytes) (h : bs.length = 16777216) :
    (Instr.hsCertificate .clientToServer bs).wellFormed = false := by simp [Instr.wellFormed, h]
theorem test_wf_unknown_listed_type :
    ∀ t ∈ listedHandshakeTypes, (Instr.hsUnknown .clientToServer t []).wellFormed = false := by decide
theorem test_wf_unknown_too_long (bs : Bytes) (h : bs.length = 16777216) :
    (Instr.hsUnknown .clientToServer 3 bs).wellFormed = false := by simp [Instr.wellFormed, h]
theorem test_wf_extension_too_long (bs : Bytes) (h : bs.length = 65536) :
    (Instr.extServerName bs).wellFormed = false := by simp [Instr.wellFormed, h]
theorem test_wf_extension_listed_type :
    (Instr.extOther 0 []).wellFormed = false ∧ (Instr.extOther 35 []).wellFormed = false := by decide
theorem test_wf_extension_other_too_long (bs : Bytes) (h : bs.length = 65536) :
    (Instr.extOther 10 bs).wellFormed = false := by simp [Instr.wellFormed, h]
theorem test_wf_name_too_long (bs : Bytes) (h : bs.length = 65536) :
    (Instr.sniHostName bs).wellFormed = false := by simp [Instr.wellFormed, h]
theorem test_wf_name_listed_type : (Instr.sniOther 0 []).wellFormed = false := by decide
theorem test_wf_name_other_too_long (bs : Bytes) (h : bs.length = 65536) :
    (Instr.sniOther 1 bs).wellFormed = false := by simp [Instr.wellFormed, h]
theorem test_wf_feed_too_long (bs : Bytes) (h : bs.length = 4294967296) :
    (Instr.feed 0 bs).wellFormed = false := by simp [Instr.wellFormed, h]
theorem test_wf_command_listed_opcode :
    ∀ op ∈ ([1, 2, 3, 4] : List Byte), (Instr.cmdIllegal op).wellFormed = false := by decide

/-- R8: the table is a map. -/
theorem test_wf_table_twice :
    (Instr.create { defaultParams with suiteTable := defaultSuiteTable ++ [streamRow 0x0004 .rc4 16 (some .md5) 16 true] }).wellFormed =
      false := by decide
/-- R30: `block_len` is `iv_len`, both 0 for a stream suite; the MAC length is that of the hash. -/
theorem test_wf_suite_shapes :
    (blockRow 0x002F .aes 16 0 true).2.wellFormed = false ∧
    ({ (blockRow 0x002F .aes 16 16 true).2 with ivLen := 8 } : CipherSuiteParams).wellFormed = false ∧
    ({ (streamRow 0x0005 .rc4 16 (some .sha1) 20 true).2 with ivLen := 8 } : CipherSuiteParams).wellFormed = false ∧
    (streamRow 0x0004 .rc4 16 (some .md5) 20 true).2.wellFormed = false ∧
    (streamRow 0x0005 .rc4 16 (some .sha1) 16 true).2.wellFormed = false ∧
    (streamRow 0x0000 .null 0 none 0 true).2.wellFormed = false := by decide
theorem test_wf_default_table : (Instr.create defaultParams).wellFormed = true := by decide

/-! ### Decoding: words written out from the formats of 30_encoding -/

/-- R71, R134: the content types, plain and protected. -/
theorem test_decode_records :
    decode (.record .clientToServer .start) [0x14, 0x03, 0x01, 0x00, 0x01, 0x01] =
      .ok (.ccs .clientToServer 0x03 0x01 [0x01], []) ∧
    decode (.record .serverToClient .sawHello) [0x15, 0x03, 0x01, 0x00, 0x02, 0x02, 0x28] =
      .ok (.alertPlain .serverToClient 0x03 0x01 [0x02, 0x28], []) ∧
    decode (.record .serverToClient .changeCipherSpecSeen) [0x15, 0x03, 0x01, 0x00, 0x02, 0x02, 0x28] =
      .ok (.alertProtected .serverToClient 0x03 0x01 [0x02, 0x28], []) ∧
    decode (.record .clientToServer .sawHello) [0x16, 0x03, 0x00, 0x00, 0x04, 0x0e, 0x00, 0x00, 0x00, 0x99] =
      .ok (.handshakePlain .clientToServer 0x03 0x00 [0x0e, 0x00, 0x00, 0x00], [0x99]) ∧
    decode (.record .clientToServer .finished) [0x16, 0x03, 0x02, 0x00, 0x01, 0xaa] =
      .ok (.handshakeProtected .clientToServer 0x03 0x02 [0xaa], []) ∧
    decode (.record .serverToClient .finished) [0x17, 0x03, 0x01, 0x00, 0x00, 0x17] =
      .ok (.appData .serverToClient 0x03 0x01 [], [0x17]) ∧
    decode (.record .clientToServer .start) [0x18, 0x03, 0x01, 0x00, 0x01, 0x00] =
      .ok (.recordIllegal .clientToServer 0x18 0x03 0x01 [0x00], []) := by decide

/-- R70, R130: a length of two bytes, big-endian; a record one byte short. -/
theorem test_decode_record_length :
    decode (.record .clientToServer .start) (0x17 :: 0x03 :: 0x01 :: 0x01 :: 0x02 :: List.replicate 258 0xaa) =
      .ok (.appData .clientToServer 0x03 0x01 (List.replicate 258 0xaa), []) ∧
    decode (.record .clientToServer .start) (0x17 :: 0x03 :: 0x01 :: 0x01 :: 0x02 :: List.replicate 257 0xaa) =
      .error .needMoreData ∧
    decode (.record .clientToServer .start) [0x17, 0x03, 0x01, 0x00] = .error .needMoreData := by decide +kernel

/-- R75: the handshake types. -/
theorem test_decode_messages :
    decode (.message .serverToClient) [0x00, 0x00, 0x00, 0x00] = .ok (.hsHelloRequest .serverToClient [], []) ∧
    decode (.message .clientToServer) [0x01, 0x00, 0x00, 0x01, 0xaa] = .ok (.hsClientHello .clientToServer [0xaa], []) ∧
    decode (.message .serverToClient) [0x02, 0x00, 0x00, 0x01, 0xaa] = .ok (.hsServerHello .serverToClient [0xaa], []) ∧
    decode (.message .serverToClient) [0x04, 0x00, 0x00, 0x01, 0xaa] = .ok (.hsNewSessionTicket .serverToClient [0xaa], []) ∧
    decode (.message .serverToClient) [0x0b, 0x00, 0x00, 0x01, 0xaa] = .ok (.hsCertificate .serverToClient [0xaa], []) ∧
    decode (.message .serverToClient) [0x0c, 0x00, 0x00, 0x01, 0xaa] = .ok (.hsServerKeyExchange .serverToClient [0xaa], []) := by
  decide
theorem test_decode_later_messages :
    decode (.message .serverToClient) [0x0d, 0x00, 0x00, 0x01, 0xaa] = .ok (.hsCertificateRequest .serverToClient [0xaa], []) ∧
    decode (.message .serverToClient) [0x0e, 0x00, 0x00, 0x01, 0xaa] = .ok (.hsServerHelloDone .serverToClient [0xaa], []) ∧
    decode (.message .clientToServer) [0x0f, 0x00, 0x00, 0x01, 0xaa] = .ok (.hsCertificateVerify .clientToServer [0xaa], []) ∧
    decode (.message .clientToServer) [0x10, 0x00, 0x00, 0x01, 0xaa] = .ok (.hsClientKeyExchange .clientToServer [0xaa], []) ∧
    decode (.message .clientToServer) [0x14, 0x00, 0x00, 0x01, 0xaa] = .ok (.hsFinished .clientToServer [0xaa], []) ∧
    decode (.message .clientToServer) [0x16, 0x00, 0x00, 0x01, 0xaa] = .ok (.hsUnknown .clientToServer 0x16 [0xaa], []) := by
  decide

/-- R74, R162, R163: a length of three bytes, big-endian; an overrun; a header that is not whole. -/
theorem test_decode_message_length :
    decode (.message .clientToServer) (0x14 :: 0x00 :: 0x01 :: 0x02 :: List.replicate 258 0xaa) =
      .ok (.hsFinished .clientToServer (List.replicate 258 0xaa), []) ∧
    decode (.message .clientToServer) [0x14, 0x01, 0x00, 0x00, 0xaa] = .error .lengthOverrun ∧
    decode (.message .clientToServer) [0x14, 0x00, 0x00] = .error .truncatedHeader := by decide +kernel

/-- R77, R78: extension types and name types. -/
theorem test_decode_hello_parts :
    decode .extension [0x00, 0x00, 0x00, 0x01, 0xaa] = .ok (.extServerName [0xaa], []) ∧
    decode .extension [0x00, 0x23, 0x00, 0x02, 0xaa, 0xbb] = .ok (.extSessionTicket [0xaa, 0xbb], []) ∧
    decode .extension [0xff, 0x01, 0x00, 0x01, 0x00] = .ok (.extOther 0xff01 [0x00], []) ∧
    decode .extension [0x23, 0x00, 0x00, 0x00] = .ok (.extOther 0x2300 [], []) ∧
    decode .extension [0x00, 0x23, 0x00, 0x05, 0xaa, 0xbb] = .error .lengthOverrun ∧
    decode .sniEntry [0x00, 0x00, 0x02, 0x61, 0x62] = .ok (.sniHostName [0x61, 0x62], []) ∧
    decode .sniEntry [0x01, 0x00, 0x03, 0x78, 0x79, 0x7a] = .ok (.sniOther 0x01 [0x78, 0x79, 0x7a], []) ∧
    decode .sniEntry [0x00, 0x00] = .error .truncatedHeader := by decide +kernel

/-- R93: the commands. -/
theorem test_decode_commands :
    decode (.command defaultParams) [0x01] = .ok (.create defaultParams, []) ∧
    decode (.command defaultParams) [0x02, 0x01, 0x00, 0x00, 0x00, 0x02, 0x16, 0x03] = .ok (.feed 0x01 [0x16, 0x03], []) ∧
    decode (.command defaultParams) [0x02, 0x05, 0x00, 0x00, 0x00, 0x00] = .ok (.feed 0x05 [], []) ∧
    decode (.command defaultParams) [0x03] = .ok (.status, []) ∧
    decode (.command defaultParams) [0x04] = .ok (.finish, []) ∧
    decode (.command defaultParams) [0x00] = .ok (.cmdIllegal 0x00, []) ∧
    decode (.command defaultParams) [0x05] = .ok (.cmdIllegal 0x05, []) ∧
    decode (.command defaultParams) [] = .error .emptyCommand ∧
    decode (.command defaultParams) [0x02, 0x00, 0x00, 0x00, 0x00, 0x02, 0x16] = .error .truncatedCommand := by decide

/-- R70, R74, R77, R78, R93: one instruction of each format, written back. -/
theorem test_encode_formats :
    encode (.alertProtected .serverToClient 0x03 0x01 [0x02, 0x28]) = [0x15, 0x03, 0x01, 0x00, 0x02, 0x02, 0x28] ∧
    encode (.hsNewSessionTicket .serverToClient [0xaa]) = [0x04, 0x00, 0x00, 0x01, 0xaa] ∧
    encode (.extSessionTicket [0xaa, 0xbb]) = [0x00, 0x23, 0x00, 0x02, 0xaa, 0xbb] ∧
    encode (.sniOther 0x01 [0x78]) = [0x01, 0x00, 0x01, 0x78] ∧
    encode (.feed 0x01 [0x16, 0x03]) = [0x02, 0x01, 0x00, 0x00, 0x00, 0x02, 0x16, 0x03] := by decide

/-- Words of the opcode table, each in the format the model reads it in (log entry 15). -/
theorem test_table_words :
    decodeTableWord 8 0x14 = some (.ccs .clientToServer 0 0 []) ∧
    decodeTableWord 8 0x15 = some (.alertPlain .clientToServer 0 0 []) ∧
    decodeTableWord 8 0x16 = some (.handshakePlain .clientToServer 0 0 []) ∧
    decodeTableWord 8 0x17 = some (.appData .clientToServer 0 0 []) ∧
    decodeTableWord 8 0x0b = some (.hsCertificate .clientToServer []) ∧
    decodeTableWord 16 0x23 = some (.extSessionTicket []) ∧
    decodeTableWord 8 0x02 = some (.feed 0 []) ∧
    decodeTableWord 8 0x04 = some .finish := by decide +kernel

/-! ### Single steps -/

/-- Whether an outcome is a next state that passes a check. -/
def answers (o : Host.Outcome State Fault Refusal) (check : State → Bool) : Bool :=
  match o with
  | .next s => check s
  | .fault _ => false
  | .refused _ => false

/-- Whether a command answers this result with these events. -/
def responds (o : Host.Outcome State Fault Refusal) (r : ResultCode) (es : List Event) : Bool :=
  answers o fun s => s.response.result = r ∧ s.response.events = es

/-- `s` with the bytes `bs` buffered in direction `d`. -/
def buffered (d : Dir) (bs : Bytes) (s : State) : State :=
  s.setStream d { buf := bs, cursor := 0 }

/-- The bytes `a`, `a + 1`, … -/
def count (a n : Nat) : Bytes :=
  (List.range n).map fun k => BitVec.ofNat 8 (a + k)

/-- A step from `withFetchWord` runs the word's instruction. -/
theorem test_fetch_word :
    answers (step (State.reset.withFetchWord 8 0x15)) (fun s => s.response.events = [.plainAlert .clientToServer []]) = true ∧
    answers (step (State.reset.withFetchWord 8 0x0e)) (fun s => s.response.events = [.hsMsg .clientToServer 14 []]) = true ∧
    answers (step (State.reset.withFetchWord 8 0x04)) (fun s => s.conn.closed) = true := by decide

/-- V40-1. -/
theorem test_feed_partial_header :
    responds (exec (.feed 0 [0x16, 0x03, 0x01]) State.reset) .ok [] = true := by decide
theorem test_finish_surfaces :
    responds (exec .finish (buffered .clientToServer [0x16, 0x03, 0x01] State.reset)) .ok
      [.raw .clientToServer [0x16, 0x03, 0x01]] = true := by decide
/-- V40-2. -/
theorem test_feed_bad_direction : responds (exec (.feed 2 [0x17]) State.reset) .refused [] = true := by decide
theorem test_finish_closed :
    responds (exec .finish { State.reset with conn := { resetConn with closed := true } }) .refused [] = true := by decide
/-- R119. -/
theorem test_cmd_illegal : responds (exec (.cmdIllegal 0x05) State.reset) .refused [] = true := by decide
/-- R111: a new engine after a closed one. -/
theorem test_create :
    answers (exec (.create defaultParams) { State.reset with conn := { resetConn with closed := true } })
      (fun s => s = State.reset) = true := by decide
/-- V41-1. -/
theorem test_alert_one_byte_short :
    answers (exec (.alertPlain .serverToClient 3 1 [2, 0x28]) (buffered .serverToClient [0x15, 3, 1, 0, 2, 2] State.reset))
      (fun s => s = buffered .serverToClient [0x15, 3, 1, 0, 2, 2] State.reset) = true := by decide
/-- V41-2, V40-4. -/
theorem test_illegal_record :
    answers (exec (.recordIllegal .clientToServer 0x18 3 1 [0]) (buffered .clientToServer [0x18, 3, 1, 0, 1, 0] State.reset))
      (fun s => s.conn.disabled ∧ s.conn.errorKind = 1 ∧ s.conn.errorDetail = 1 ∧ s.avail .clientToServer = 0 ∧
        s.response.events = [.error .clientToServer 1 1, .raw .clientToServer [0x18, 3, 1, 0, 1, 0]]) = true := by
  decide
/-- V41-4. -/
theorem test_plain_alert :
    responds (exec (.alertPlain .serverToClient 3 1 [2, 0x28])
      (buffered .serverToClient [0x15, 3, 1, 0, 2, 2, 0x28] State.reset)) .ok [.plainAlert .serverToClient [2, 0x28]] = true := by
  decide
/-- V41-5. -/
theorem test_empty_handshake_record :
    answers (exec (.handshakePlain .clientToServer 3 1 []) (buffered .clientToServer [0x16, 3, 1, 0, 0] State.reset))
      (fun s => s.avail .clientToServer = 0 ∧ s.response.events = []) = true := by decide
/-- V41-6, V41-7: without keys application data waits, or fails after the other direction's ChangeCipherSpec. -/
theorem test_app_data_waits :
    answers (exec (.appData .clientToServer 3 1 []) (buffered .clientToServer [0x17, 3, 1, 0, 0] State.reset))
      (fun s => s = buffered .clientToServer [0x17, 3, 1, 0, 0] State.reset) = true := by decide
theorem test_app_data_without_keys :
    answers (exec (.appData .clientToServer 3 1 [])
      (buffered .clientToServer [0x17, 3, 1, 0, 0] (State.reset.setHs .serverToClient .changeCipherSpecSeen)))
      (fun s => s.conn.errorKind = 1 ∧ s.conn.errorDetail = 9) = true := by decide
/-- V41-7: the first ChangeCipherSpec waits for the hellos. -/
theorem test_ccs_waits :
    answers (exec (.ccs .serverToClient 3 1 [1]) (buffered .serverToClient [0x14, 3, 1, 0, 1, 1] State.reset))
      (fun s => s.avail .serverToClient = 6 ∧ s.peer1.hsState = .changeCipherSpecSeen ∧ s.response.events = []) = true := by
  decide
/-- V42-2, V42-3. -/
theorem test_handshake_overrun :
    answers (exec (.handshakePlain .serverToClient 3 1 [2, 0, 0, 0x50, 3, 3])
      (buffered .serverToClient [0x16, 3, 1, 0, 6, 2, 0, 0, 0x50, 3, 3] State.reset))
      (fun s => s.conn.errorKind = 1 ∧ s.conn.errorDetail = 3 ∧ s.conn.errorDir = .serverToClient) = true := by decide
theorem test_handshake_truncated :
    responds (exec (.feed 1 [0x16, 3, 1, 0, 5, 0x0e, 0, 0, 0, 0x0e]) State.reset) .fatal
      [.hsMsg .serverToClient 14 [], .error .serverToClient 1 2, .raw .serverToClient [0x16, 3, 1, 0, 5, 0x0e, 0, 0, 0, 0x0e]] =
      true := by decide
/-- V42-6: no extensions, an empty compression list. -/
theorem test_client_hello_minimal :
    answers (exec (.hsClientHello .clientToServer ([3, 1] ++ count 0 32 ++ [2, 0xaa, 0xbb, 0, 4, 0, 0x2f, 0, 0x35, 0])) State.reset)
      (fun s => s.conn.clientRandom = count 0 32 ∧ s.conn.clientSessionId = [0xaa, 0xbb] ∧ s.conn.sni = [] ∧
        s.conn.compression = 0 ∧ s.conn.clientRandomSet ∧ s.peer0.hsState = .sawHello ∧ s.peer1.hsState = .start) = true := by
  decide
/-- V42-7: one byte after the compression list. -/
theorem test_client_hello_one_byte_after :
    answers (exec (.hsClientHello .clientToServer ([3, 1] ++ count 0 32 ++ [2, 0xaa, 0xbb, 0, 4, 0, 0x2f, 0, 0x35, 1, 0, 0])) State.reset)
      (fun s => s.conn.errorKind = 1 ∧ s.conn.errorDetail = 4 ∧ !s.conn.clientRandomSet) = true := by decide
/-- V42-9: a name of another type first, then two host names, a ticket, unknown extensions. -/
theorem test_server_name_first_host :
    answers (exec (.extServerName [0, 0x16, 1, 0, 3, 0x78, 0x79, 0x7a, 0, 0, 5, 0x61, 0x2e, 0x6f, 0x72, 0x67,
        0, 0, 5, 0x62, 0x2e, 0x6f, 0x72, 0x67]) State.reset)
      (fun s => s.work.sni = [0x61, 0x2e, 0x6f, 0x72, 0x67]) = true := by decide
/-- V42-11: an entry that overruns its list. -/
theorem test_server_name_overrun :
    answers (exec (.extServerName [0, 5, 0, 0, 9, 0x61, 0x62]) State.reset)
      (fun s => s.conn.errorKind = 1 ∧ s.conn.errorDetail = 4) = true := by decide
/-- V42-9. -/
theorem test_session_ticket :
    answers (exec (.extSessionTicket [0xaa, 0xbb]) State.reset) (fun s => s.work.ticket = [0xaa, 0xbb]) = true := by decide
theorem test_extension_other :
    answers (exec (.extOther 0xff01 [0]) State.reset) (fun s => s = State.reset) = true := by decide
theorem test_host_name :
    answers (exec (.sniHostName [0x61]) State.reset) (fun s => s.work.sni = [0x61] ∧ s.work.found) = true := by decide
theorem test_name_other :
    answers (exec (.sniOther 1 [0x61]) State.reset) (fun s => s = State.reset) = true := by decide
/-- V42-13, V42-15: an unknown suite keeps the fields it parsed; bytes after the compression byte are ignored. -/
theorem test_server_hello_unknown_suite :
    answers (exec (.hsServerHello .serverToClient ([3, 1] ++ count 0x20 32 ++ [0, 0x12, 0x34, 0])) State.reset)
      (fun s => s.conn.errorKind = 2 ∧ s.conn.errorDetail = 1 ∧ s.conn.version = 0x0301 ∧ s.conn.cipherSuite = 0x1234 ∧
        s.conn.serverRandom = count 0x20 32 ∧ s.conn.params = none ∧ s.peer1.hsState = .start) = true := by decide
theorem test_server_hello_trailing :
    answers (exec (.hsServerHello .serverToClient ([3, 1] ++ count 0x20 32 ++ [0, 0, 0x2f, 0, 0, 5, 0xff, 1, 0, 1, 0])) State.reset)
      (fun s => s.conn.cipherSuite = 0x002f ∧ s.conn.serverRandomSet ∧ s.peer1.hsState = .sawHello ∧
        (s.conn.params.map fun l => (l.suite.keyLen, l.suite.blockLen)) = some (16, 16)) = true := by decide
/-- V42-16. -/
theorem test_client_key_exchange_overrun :
    answers (exec (.hsClientKeyExchange .clientToServer [0, 5, 0xc0, 0xc1, 0xc2, 0xc3]) State.reset)
      (fun s => s.conn.errorKind = 1 ∧ s.conn.errorDetail = 6 ∧ s.conn.premasterSecret = []) = true := by decide
/-- V42-20, V42-21. -/
theorem test_new_session_ticket :
    answers (exec (.hsNewSessionTicket .serverToClient [0, 0, 0x1c, 0x20, 0, 2, 0xde, 0xad]) State.reset)
      (fun s => s.conn.serverTicket = [0xde, 0xad]) = true := by decide
theorem test_new_session_ticket_client :
    answers (exec (.hsNewSessionTicket .clientToServer [0, 0, 0, 0, 0, 0]) State.reset)
      (fun s => s.conn.errorKind = 1 ∧ s.conn.errorDetail = 10) = true := by decide
/-- V42-22: an unknown type and the skipped types. -/
theorem test_skipped_messages :
    responds (exec (.feed 1 ([0x16, 3, 1, 0, 0x2c, 0x16, 0, 0, 4, 1, 0, 0, 0, 0, 0, 0, 0, 0x0c, 0, 0, 1, 1, 0x0d, 0, 0, 1, 0,
        0x0f, 0, 0, 2, 0, 0, 0x14, 0, 0, 0x0c] ++ List.replicate 12 0)) State.reset) .ok
      [.hsMsg .serverToClient 22 [1, 0, 0, 0], .hsMsg .serverToClient 0 [], .hsMsg .serverToClient 12 [1],
       .hsMsg .serverToClient 13 [0], .hsMsg .serverToClient 15 [0, 0], .hsMsg .serverToClient 20 (List.replicate 12 0)] = true := by
  decide

/-! ### Witnesses: for every statement with hypotheses, states and operands that meet them, at the ends of their ranges -/

/-- A running engine whose direction 0 holds the bytes of an empty record and one more. -/
def sixBytes : State :=
  buffered .clientToServer [0x17, 3, 1, 0, 0, 0x17] State.reset

/-- A disabled engine (R262). -/
def disabledState : State :=
  { State.reset with conn := { resetConn with disabled := true, errorKind := 1, errorDetail := 1 } }

/-- A closed engine (R118). -/
def closedState : State :=
  { State.reset with conn := { resetConn with closed := true } }

/-- An engine that has seen both hellos and the key exchange (R23): the suite of `row`, version `v`, 60 bytes buffered in each
direction. -/
def readyState (v : BitVec 16) (row : BitVec 16 × CipherSuiteParams) : State :=
  { State.reset with
    conn := { resetConn with
      version := v, cipherSuite := row.1, params := some { id := row.1, suite := row.2 }, premasterSecret := List.replicate 48 7,
      clientRandomSet := true, serverRandomSet := true, premasterSet := true }
    peer0 := { hsState := .sawHello, stream := { buf := List.replicate 60 0, cursor := 0 }, keys := resetKeys }
    peer1 := { hsState := .sawHello, stream := { buf := List.replicate 60 0, cursor := 0 }, keys := resetKeys } }

/-- The suites 0x0001 and 0x002F of R90. -/
def nullRow : BitVec 16 × CipherSuiteParams := streamRow 0x0001 .null 0 (some .md5) 16 true
def aesRow : BitVec 16 × CipherSuiteParams := blockRow 0x002F .aes 16 16 true

/-- The same engine with keys: both directions past their ChangeCipherSpec. -/
def keyedState (v : BitVec 16) (row : BitVec 16 × CipherSuiteParams) : State :=
  { readyState v row with
    conn := { (readyState v row).conn with masterSecret := List.replicate 48 9, keyScheduleDone := true }
    peer0 := { (readyState v row).peer0 with
      hsState := .changeCipherSpecSeen, keys := { resetKeys with streamState := some { cipher := .null, code := 0 } } }
    peer1 := { (readyState v row).peer1 with
      hsState := .finished, keys := { resetKeys with streamState := some { cipher := .null, code := 0 } } } }

theorem test_witness_DecodeReadsBackEveryEncoding (bs : Bytes) (h : bs.length = 65535) :
    (Instr.ccs .clientToServer 3 1 []).wellFormed = true ∧
    (Context.record .clientToServer .start).admits (.ccs .clientToServer 3 1 []) = true ∧
    (Instr.appData .serverToClient 3 1 bs).wellFormed = true ∧
    (Context.record .serverToClient .finished).admits (.appData .serverToClient 3 1 bs) = true :=
  ⟨rfl, rfl, by simp [Instr.wellFormed, h], rfl⟩

theorem test_witness_DecodedBytesAreTheEncoding :
    decode (.command defaultParams) [0x01, 0x99] = .ok (.create defaultParams, [0x99]) ∧ defaultParams.wellFormed = true := by
  decide

/-- The empty byte string, and two equal events. -/
theorem test_witness_EventBytesTellTheEvent :
    ([] : Bytes).length < 4294967296 ∧
    (Event.raw .clientToServer [0xaa]).bytes.length < 4294967296 ∧
    (Event.raw .clientToServer [0xaa]).bytes ++ [] = (Event.raw .clientToServer [0xaa]).bytes ++ [] := ⟨by decide, by decide, rfl⟩

/-- The clauses of StreamPrimitives at `n = Avail` and `n = Avail + 1`. -/
theorem test_witness_StreamPrimitives :
    6 ≤ sixBytes.avail .clientToServer ∧ sixBytes.avail .clientToServer < 7 ∧ 0 ≤ sixBytes.avail .serverToClient := by decide

theorem test_witness_StepRunsTheRequestedInstruction :
    ({ State.reset with pending := [.command defaultParams [0x03]] } : State).pending = .command defaultParams [0x03] :: [] ∧
    decode (.command defaultParams) [0x03] = .ok (.status, []) ∧
    decode (.message .clientToServer) [0x14, 0, 0, 0] = .ok (.hsFinished .clientToServer [], []) ∧
    decode .extension [0, 0, 0, 0] = .ok (.extServerName [], []) ∧
    decode .sniEntry [0, 0, 0] = .ok (.sniHostName [], []) := by decide +kernel

/-- The three clauses: a record there, a record one byte short, a disabled engine. -/
theorem test_witness_StepRunsTheRecordAtTheCursor :
    sixBytes.running ∧
    decode (.record .clientToServer (sixBytes.peer .clientToServer).hsState) (sixBytes.unconsumed .clientToServer) =
      .ok (.appData .clientToServer 3 1 [], [0x17]) ∧
    State.reset.running ∧
    decode (.record .clientToServer (State.reset.peer .clientToServer).hsState) (State.reset.unconsumed .clientToServer) =
      .error .needMoreData ∧
    disabledState.conn.disabled = true :=
  ⟨rfl, by decide, rfl, by decide, rfl⟩

theorem test_witness_DisabledStepSurfacesRaw :
    disabledState.conn.disabled = true ∧ disabledState.avail .clientToServer = 0 ∧
    (buffered .clientToServer [0x15] disabledState).conn.disabled = true ∧
    0 < (buffered .clientToServer [0x15] disabledState).avail .clientToServer := by decide

/-- A payload that is no message; a message that goes on; a message that disables. -/
theorem test_witness_HandshakePayloadRunsItsMessages :
    State.reset.running ∧ decode (.message .clientToServer) [0x0e, 0, 0] = .error .truncatedHeader ∧
    decode (.message .clientToServer) [0x0e, 0, 0, 0] = .ok (.hsServerHelloDone .clientToServer [], []) ∧
    (∃ t, exec (.hsServerHelloDone .clientToServer []) State.reset = .next t ∧ t.running) ∧
    decode (.message .clientToServer) [0x02, 0, 0, 0] = .ok (.hsServerHello .clientToServer [], []) ∧
    (∃ t, exec (.hsServerHello .clientToServer []) State.reset = .next t ∧ ¬ t.running) :=
  ⟨rfl, by decide, by decide, ⟨_, rfl, rfl⟩, by decide, ⟨_, rfl, fun h => Bool.noConfusion (show true = false from h)⟩⟩

theorem test_witness_HelloLoopsRunTheirItems :
    State.reset.running ∧ decode .extension [0, 35, 0, 0] = .ok (.extSessionTicket [], []) ∧
    (∃ t, exec (.extSessionTicket []) State.reset = .next t ∧ t.running) ∧
    decode .extension [0, 0, 0, 1, 0] = .ok (.extServerName [0], []) ∧
    (∃ t, exec (.extServerName [0]) State.reset = .next t ∧ ¬ t.running) ∧
    decode .sniEntry [0, 0, 0] = .ok (.sniHostName [], []) ∧
    (∃ t, exec (.sniHostName []) State.reset = .next t) :=
  ⟨rfl, by decide +kernel, ⟨_, rfl, rfl⟩, by decide +kernel, ⟨_, rfl, fun h => Bool.noConfusion (show true = false from h)⟩,
    by decide +kernel, ⟨_, rfl⟩⟩
/-- A header one byte short, and a length one more than the bytes after it. -/
theorem test_witness_HelloLoopsRunTheirItems_undecodable :
    decode .extension [0, 35, 0] = .error .truncatedHeader ∧ decode .extension [0, 35, 0, 1] = .error .lengthOverrun ∧
    decode .sniEntry [0, 0] = .error .truncatedHeader ∧ decode .sniEntry [0, 0, 1] = .error .lengthOverrun := by decide +kernel

/-- The opcodes next to the four commands, the direction bytes 2 and 255, a closed engine. -/
theorem test_witness_RefusedCommandsWriteNothing :
    (∀ op : Byte, op = 0 ∨ op = 5 → op ≠ 1 ∧ op ≠ 2 ∧ op ≠ 3 ∧ op ≠ 4) ∧
    1 < (2 : Byte).toNat ∧ 1 < (255 : Byte).toNat ∧ closedState.conn.closed = true :=
  ⟨by rintro op (rfl | rfl) <;> decide, by decide, by decide, rfl⟩

theorem test_witness_FeedAppendsDrainsAndAnswers :
    (0 : Byte).toNat = Dir.clientToServer.index ∧ (1 : Byte).toNat = Dir.serverToClient.index ∧
    State.reset.conn.closed = false := by decide

theorem test_witness_ProgressConsumesAByte :
    stepDir .clientToServer (buffered .clientToServer [0x15, 3, 1, 0, 0] State.reset) =
      .next (true, (State.emit (buffered .clientToServer [0x15, 3, 1, 0, 0] State.reset)
        (.plainAlert .clientToServer [])).advance .clientToServer 5) ∧
    stepDir .clientToServer State.reset = .next (false, State.reset) := ⟨rfl, rfl⟩

/-- The empty byte string. -/
theorem test_witness_StatusDumpsTheRegisters : ([] : Bytes).length < 4294967296 := by decide

/-- Four bytes, and a header whose one payload byte is missing. -/
theorem test_witness_FeedOfPartialRecordOnlyAppends :
    (0 : Byte).toNat = Dir.clientToServer.index ∧ State.reset.conn.closed = false ∧ State.reset.running ∧
    (∀ x ∈ ([[0x16, 3, 1, 0], [0x16, 3, 1, 0, 1]] : List Bytes), ∀ e h,
      decode (.record e h) ((State.reset.append .clientToServer x).unconsumed e) = .error .needMoreData) := by
  refine ⟨rfl, rfl, rfl, fun x hx e h => ?_⟩
  rcases List.mem_pair.mp hx with rfl | rfl <;> cases e <;> rfl

theorem test_witness_FeedWhileDisabledSurfacesBytes :
    (1 : Byte).toNat = Dir.serverToClient.index ∧ disabledState.conn.closed = false ∧ disabledState.conn.disabled = true ∧
    ∀ e, (disabledState.peer e).stream.cursor ≤ (disabledState.peer e).stream.buf.length :=
  ⟨rfl, rfl, rfl, fun e => by cases e <;> decide⟩

/-- Both branches of the drain: a round without progress and one with. -/
theorem test_witness_DrainIsTheLoopOfTheSpec :
    (∃ u, runDir .clientToServer State.reset = .next (false, u)) ∧ (∃ u, runDir .serverToClient State.reset = .next (false, u)) ∧
    ∃ u, runDir .clientToServer (buffered .clientToServer [0x15, 3, 1, 0, 0] State.reset) = .next (true, u) :=
  ⟨⟨_, rfl⟩, ⟨_, rfl⟩, ⟨_, rfl⟩⟩

theorem test_witness_FinishSurfacesAndCloses :
    closedState.conn.closed = true ∧ sixBytes.conn.closed = false ∧ disabledState.conn.closed = false := by decide

/-- A cursor at the end of its buffer, and one before it. -/
theorem test_witness_NoInstructionConsumesPastTheBuffer :
    (∀ d, (State.reset.peer d).stream.cursor ≤ (State.reset.peer d).stream.buf.length) ∧
    ∀ d, (sixBytes.peer d).stream.cursor ≤ (sixBytes.peer d).stream.buf.length :=
  ⟨fun d => by cases d <;> decide, fun d => by cases d <;> decide⟩

/-- A keyed engine with a request pending satisfies the invariant, and its step answers a next state. -/
theorem test_witness_StepKeepsTheInvariant :
    State.Inv { keyedState 0x0301 nullRow with pending := [.command defaultParams [0x03]] } ∧
    ∃ t, step { keyedState 0x0301 nullRow with pending := [.command defaultParams [0x03]] } = .next t := by
  refine ⟨⟨fun d => by cases d <;> decide, by decide, fun _ => by decide, fun _ => ⟨_, rfl, rfl⟩, by decide, fun _ => ?_,
    fun h => absurd h (by decide), by decide, fun _ _ => .inl rfl, fun h => absurd h (by decide)⟩, ⟨_, rfl⟩⟩
  exact ⟨rfl, by decide, by decide, by decide, fun _ d => by cases d <;> rfl⟩

theorem test_witness_HandshakeStatesAndFlagsNeverGoBack :
    (∀ p, Instr.status ≠ .create p) ∧ (∃ t, exec .status (keyedState 0x0301 nullRow) = .next t) ∧
    (keyedState 0x0301 nullRow).conn.clientRandomSet = true ∧ (keyedState 0x0301 nullRow).conn.serverRandomSet = true ∧
    (keyedState 0x0301 nullRow).conn.premasterSet = true ∧ (keyedState 0x0301 nullRow).conn.keyScheduleDone = true ∧
    disabledState.conn.disabled = true ∧ closedState.conn.closed = true :=
  ⟨(fun _ h => nomatch h), ⟨_, rfl⟩, rfl, rfl, rfl, rfl, rfl, rfl⟩

theorem test_witness_DisabledEngineInterpretsNothing :
    (∀ p, Instr.feed 0 [0x16] ≠ .create p) ∧ disabledState.conn.disabled = true ∧
    ∃ t, exec (.feed 0 [0x16]) disabledState = .next t :=
  ⟨(fun _ h => nomatch h), rfl, ⟨_, rfl⟩⟩

/-- The first ChangeCipherSpec of a ready SSLv3 engine changes the master secret. -/
theorem test_witness_KeysAreWrittenOnce :
    (∀ p, Instr.ccs .clientToServer 3 0 [1] ≠ .create p) ∧
    ∃ t, exec (.ccs .clientToServer 3 0 [1]) (readyState 0x0300 nullRow) = .next t ∧
      (readyState 0x0300 nullRow).conn.masterSecret ≠ t.conn.masterSecret := by
  refine ⟨(fun _ h => nomatch h), ⟨_, rfl, fun h => ?_⟩⟩
  have h' : ([] : Bytes) = masterSecret .sslv3 (readyState 0x0300 nullRow).conn := h
  rw [masterSecret, if_pos rfl, ssl3Expand, if_pos (by decide)] at h'
  simpa [List.range_succ, ssl3Round, Machine.hash] using congrArg List.length h'

/-- The types next to the four known ones, and a header alone. -/
theorem test_witness_IllegalRecordDisables :
    (∀ ty : Byte, ty = 0x13 ∨ ty = 0x18 → (Instr.recordIllegal .clientToServer ty 3 1 []).wellFormed = true) ∧
    (buffered .clientToServer [0x18, 3, 1, 0, 0] State.reset).dispatches .clientToServer [] ∧
    (buffered .clientToServer [0x18, 3, 1, 0] State.reset).running ∧
    (buffered .clientToServer [0x18, 3, 1, 0] State.reset).avail .clientToServer < 5 + ([] : Bytes).length :=
  ⟨by rintro ty (rfl | rfl) <;> decide, ⟨rfl, by decide⟩, rfl, by decide⟩

/-- One byte missing. -/
theorem test_witness_UnbufferedRecordChangesNothing :
    (buffered .clientToServer [0x17, 3, 1, 0] State.reset).running ∧
    (buffered .clientToServer [0x17, 3, 1, 0] State.reset).avail .clientToServer < 5 + ([] : Bytes).length :=
  ⟨rfl, by decide⟩

theorem test_witness_EarlyCcsWaitsOrFails :
    sixBytes.dispatches .clientToServer [1] ∧ sixBytes.conn.ready = false ∧
    (sixBytes.peer Dir.clientToServer.other).hsState.reachedCcs = false ∧
    (sixBytes.setHs .serverToClient .changeCipherSpecSeen).dispatches .clientToServer [1] ∧
    (sixBytes.setHs .serverToClient .changeCipherSpecSeen).conn.ready = false ∧
    ((sixBytes.setHs .serverToClient .changeCipherSpecSeen).peer Dir.clientToServer.other).hsState.reachedCcs = true :=
  ⟨⟨rfl, by decide⟩, rfl, rfl, ⟨rfl, by decide⟩, rfl, rfl⟩

theorem test_witness_CcsAfterTheKeysIsConsumed :
    (keyedState 0x0301 nullRow).dispatches .serverToClient [1] ∧ (keyedState 0x0301 nullRow).conn.ready = true ∧
    (keyedState 0x0301 nullRow).conn.keyScheduleDone = true := ⟨⟨rfl, by decide⟩, rfl, rfl⟩

theorem test_witness_FirstReadyCcsDerivesTheKeys :
    ∀ v : BitVec 16, v = 0x0300 ∨ v = 0x0301 ∨ v = 0x0302 →
      (readyState v aesRow).dispatches .clientToServer [1] ∧ (readyState v aesRow).conn.ready = true ∧
      (readyState v aesRow).conn.keyScheduleDone = false ∧
      (readyState v aesRow).conn.params = some { id := 0x002F, suite := aesRow.2 } ∧ (readyState v aesRow).conn.version = v :=
  by
  rintro v (rfl | rfl | rfl) <;> exact ⟨⟨rfl, by decide⟩, rfl, rfl, rfl, rfl⟩

/-- The versions at either side of the four known ones. -/
theorem test_witness_FirstReadyCcsDerivesTheKeys_otherVersion :
    ∀ v : BitVec 16, v = 0x0304 ∨ v = 0x02ff → v ≠ 0x0300 ∧ v ≠ 0x0301 ∧ v ≠ 0x0302 ∧ v ≠ 0x0303 := by
  rintro v (rfl | rfl) <;> decide

/-- TLS 1.2, and the versions at either side of the known ones. -/
theorem test_witness_UnsupportedVersionDisables :
    ∀ v : BitVec 16, v = 0x0303 ∨ v = 0x0304 ∨ v = 0x02ff →
      (readyState v nullRow).dispatches .clientToServer [1] ∧ (readyState v nullRow).conn.ready = true ∧
      (readyState v nullRow).conn.keyScheduleDone = false ∧ (readyState v nullRow).conn.version ≠ 0x0300 ∧
      (readyState v nullRow).conn.version ≠ 0x0301 ∧ (readyState v nullRow).conn.version ≠ 0x0302 := by
  rintro v (rfl | rfl | rfl) <;> exact ⟨⟨rfl, by decide⟩, rfl, rfl, by decide, by decide, by decide⟩

theorem test_witness_KeysIgnoreTheTriggeringDirection :
    (readyState 0x0301 nullRow).dispatches .clientToServer [1] ∧ (readyState 0x0301 nullRow).dispatches .serverToClient [] ∧
    (readyState 0x0301 nullRow).conn.ready = true ∧ (readyState 0x0301 nullRow).conn.keyScheduleDone = false ∧
    (readyState 0x0301 nullRow).conn.version = 0x0301 ∧
    (∃ t, exec (.ccs .clientToServer 3 1 [1]) (readyState 0x0301 nullRow) = .next t) ∧
    (∃ t, exec (.ccs .serverToClient 3 1 []) (readyState 0x0301 nullRow) = .next t) :=
  ⟨⟨rfl, by decide⟩, ⟨rfl, by decide⟩, rfl, rfl, rfl, ⟨_, rfl⟩, ⟨_, rfl⟩⟩

theorem test_witness_PlainAlertIsReported : sixBytes.dispatches .clientToServer [2] := ⟨rfl, by decide⟩

theorem test_witness_AppDataWaitsOrFailsBeforeTheKeys :
    sixBytes.dispatches .clientToServer [] ∧ sixBytes.conn.ready = false ∧
    (sixBytes.peer Dir.clientToServer.other).hsState.reachedCcs = false ∧
    (sixBytes.setHs .serverToClient .finished).dispatches .clientToServer [] ∧
    (sixBytes.setHs .serverToClient .finished).conn.ready = false ∧
    ((sixBytes.setHs .serverToClient .finished).peer Dir.clientToServer.other).hsState.reachedCcs = true ∧
    (readyState 0x0301 nullRow).dispatches .clientToServer [] ∧ (readyState 0x0301 nullRow).conn.ready = true ∧
    (readyState 0x0301 nullRow).conn.keyScheduleDone = false :=
  ⟨⟨rfl, by decide⟩, rfl, rfl, ⟨rfl, by decide⟩, rfl, rfl, ⟨rfl, by decide⟩, rfl, rfl⟩

theorem test_witness_MasterSecretAndKeyBlockInputs :
    VersionClass.tls10 = .tls10 ∨ VersionClass.tls10 = .tls11 := .inl rfl

/-- The largest length, and one that is no multiple of 16. -/
theorem test_witness_Ssl3ExpandIsItsRounds : (416 ≤ 416 ∧ 416 ≤ 16 * 26) ∧ (17 ≤ 416 ∧ 17 ≤ 16 * 2) := by decide

theorem test_witness_PHashIsItsRounds :
    32 ≤ (match MacAlg.md5 with
      | .md5 => 16
      | .sha1 => 20) * 2 ∧
    21 ≤ (match MacAlg.sha1 with
      | .md5 => 16
      | .sha1 => 20) * 2 := by decide

/-- Each of the three protected forms, in a keyed engine of a stream suite and of a block suite. -/
theorem test_witness_decrypts (row : BitVec 16 × CipherSuiteParams) (bs : Bytes) (h : bs.length ≤ 55) :
    (keyedState 0x0301 row).decrypts (.appData .clientToServer 3 1 bs) .clientToServer 23 3 1 bs ∧
    (keyedState 0x0301 row).decrypts (.alertProtected .clientToServer 3 1 bs) .clientToServer 21 3 1 bs ∧
    (keyedState 0x0301 row).decrypts (.handshakeProtected .clientToServer 3 1 bs) .clientToServer 22 3 1 bs := by
  have hd : (keyedState 0x0301 row).dispatches .clientToServer bs :=
    ⟨rfl, by show 5 + bs.length ≤ (List.replicate 60 (0 : Byte)).length - 0; rw [List.length_replicate]; omega⟩
  exact ⟨⟨hd, .inl ⟨rfl, rfl, rfl, rfl⟩⟩, ⟨hd, .inr (.inl ⟨rfl, rfl⟩)⟩, ⟨hd, .inr (.inr ⟨rfl, rfl⟩)⟩⟩

theorem test_witness_StreamRecordIsDecrypted :
    (keyedState 0x0301 nullRow).decrypts (.appData .clientToServer 3 1 []) .clientToServer 23 3 1 [] ∧
    (keyedState 0x0301 nullRow).suite.family = .stream ∧
    ((keyedState 0x0301 nullRow).peer .clientToServer).keys.streamState = some { cipher := .null, code := 0 } :=
  ⟨(test_witness_decrypts nullRow [] (by decide)).1, rfl, rfl⟩

theorem test_witness_BlockRecordIsDecrypted :
    (keyedState 0x0301 aesRow).decrypts (.appData .clientToServer 3 1 (List.replicate 16 0)) .clientToServer 23 3 1
      (List.replicate 16 0) ∧
    (keyedState 0x0301 aesRow).decrypts (.appData .clientToServer 3 1 (List.replicate 15 0)) .clientToServer 23 3 1
      (List.replicate 15 0) ∧
    (keyedState 0x0301 aesRow).suite.family = .block :=
  ⟨(test_witness_decrypts aesRow _ (by decide)).1, (test_witness_decrypts aesRow _ (by decide)).1, rfl⟩

/-- A record of the fragment `[0x70]` under the NULL cipher with MD5. -/
theorem test_witness_NullCipherRecordRoundTrip :
    ∃ payload,
      (keyedState 0x0301 nullRow).decrypts (.appData .clientToServer 3 1 payload) .clientToServer 23 3 1 payload ∧
      (keyedState 0x0301 nullRow).suite.family = .stream ∧
      ((keyedState 0x0301 nullRow).peer .clientToServer).keys.streamState = some { cipher := .null, code := 0 } ∧
      (keyedState 0x0301 nullRow).suite.macAlg = some .md5 ∧ (keyedState 0x0301 nullRow).suite.macLen = 16 ∧
      ((keyedState 0x0301 nullRow).peer .clientToServer).keys.seq.toNat < 2 ^ 64 - 1 ∧
      payload = [0x70] ++ recordMac (versionClass (keyedState 0x0301 nullRow).conn.version)
        (keyedState 0x0301 nullRow).params.macMode (keyedState 0x0301 nullRow).suite
        ((keyedState 0x0301 nullRow).peer .clientToServer).keys.macKey
        ((keyedState 0x0301 nullRow).peer .clientToServer).keys.seq 23 3 1 [0x70] := by
  refine ⟨_, (test_witness_decrypts nullRow _ ?_).1, rfl, rfl, rfl, rfl, by decide, rfl⟩
  have : ∀ key m, (hmac .md5 key m).length = 16 := fun key m => by simp [hmac]
  rw [List.length_append]
  exact le_of_eq_of_le (congrArg (1 + ·) (this _ _)) (by decide)

theorem test_witness_CbcDecryptsBlockByBlock :
    0 < 8 ∧ ∀ b ∈ [List.replicate 8 (1 : Byte), List.replicate 8 2], b.length = 8 := by decide

/-- Strict unpadding: an overrun by one byte and a wrong last pad byte. -/
theorem test_witness_UnpadRemovesExactlyThePadding_strict :
    ¬ (VersionClass.tls10 = .sslv3 ∧ PaddingCheck.strict = .lengthOnly) ∧
    ¬ (VersionClass.sslv3 = .sslv3 ∧ PaddingCheck.strict = .lengthOnly) ∧
    ([1, 2] : Bytes).length < (3 : Byte).toNat ∧
    ([3, 3, 2] : Bytes).length = (3 : Byte).toNat ∧ (∃ b ∈ ([3, 3, 2] : Bytes), b ≠ 3) := by decide
/-- `LengthOnly`: the longest padding of an 8-byte block, and one more. -/
theorem test_witness_UnpadRemovesExactlyThePadding_lengthOnly :
    ([0x11, 0x22, 0x33, 0x44, 0x55, 0x66, 0x77] : Bytes).length = (7 : Byte).toNat ∧
    (7 : Byte).toNat < (blockRow 0x000A .tripleDesEde 24 8 true).2.blockLen ∧
    (List.replicate 8 (0 : Byte)).length = (8 : Byte).toNat ∧
    (blockRow 0x000A .tripleDesEde 24 8 true).2.blockLen ≤ (8 : Byte).toNat ∧ ([] : Bytes).length < (1 : Byte).toNat := by decide

theorem test_witness_RecordMacConstructions :
    nullRow.2.macAlg = some .md5 ∧ aesRow.2.macAlg = some .sha1 ∧
    (VersionClass.tls11 = .tls10 ∨ VersionClass.tls11 = .tls11 ∨ MacMode.ssl3Mac = .hmac) ∧
    (VersionClass.sslv3 = .tls10 ∨ VersionClass.sslv3 = .tls11 ∨ MacMode.hmac = .hmac) ∧
    VersionClass.sslv3 ≠ .tls10 ∧ VersionClass.sslv3 ≠ .tls11 ∧ MacMode.ssl3Mac = .ssl3Mac := by decide

theorem test_witness_HandshakeRecordOfSkippedMessages :
    SkippedMessages [] ∧ SkippedMessages [(0, []), (20, [1, 2]), (255, [])] ∧
    sixBytes.dispatches .clientToServer (messagesBytes []) ∧
    (readyState 0x0301 nullRow).dispatches .clientToServer (messagesBytes [(0, []), (20, [1, 2]), (255, [])]) := by
  refine ⟨(fun m hm => by cases hm), ?_, ⟨rfl, by decide⟩, ⟨rfl, by decide⟩⟩
  intro m hm
  simp only [List.mem_cons, List.not_mem_nil, or_false] at hm
  rcases hm with rfl | rfl | rfl <;> decide

/-- Tails of 1 and 3 bytes; a length one more than the bytes after it, and the largest length. -/
theorem test_witness_HandshakeFramingErrors :
    SkippedMessages [] ∧ (readyState 0x0301 nullRow).dispatches .clientToServer (messagesBytes [] ++ [0x0e, 0, 0]) ∧
    (0 < ([0x0e] : Bytes).length ∧ ([0x0e] : Bytes).length < 4) ∧
    (0 < ([0x0e, 0, 0] : Bytes).length ∧ ([0x0e, 0, 0] : Bytes).length < 4) ∧
    (readyState 0x0301 nullRow).dispatches .clientToServer (messagesBytes [] ++ (0x0e :: (encBe 3 2 ++ [0xaa]))) ∧
    (2 < 16777216 ∧ ([0xaa] : Bytes).length < 2) ∧ (16777215 < 16777216 ∧ ([] : Bytes).length < 16777215) :=
  ⟨(fun m hm => by cases hm), ⟨rfl, by decide⟩, by decide, by decide, ⟨rfl, by decide⟩, by decide, by decide⟩

theorem test_witness_SkippedMessagesOnlyReport : State.reset.running ∧ (keyedState 0x0301 nullRow).running := ⟨rfl, rfl⟩

theorem test_witness_WrongDirectionDisables : State.reset.running ∧ (readyState 0x0301 nullRow).running := ⟨rfl, rfl⟩

theorem test_witness_ServerNameKeepsTheFirstHostName :
    State.reset.running ∧ (∀ n ∈ ([(1, [0x78]), (0, [0x61])] : List (Byte × Bytes)), n.2.length < 65536) ∧
    (sniBytes [(1, [0x78]), (0, [0x61])]).length < 65536 := ⟨rfl, by decide, by decide⟩

/-- The shortest fields of a ClientHello, and the longest session id and compression list. -/
theorem test_witness_ClientHelloWithoutExtensions :
    State.reset.running ∧ State.reset.peer0.hsState = .start ∧ ([3, 1] : Bytes).length = 2 ∧ (count 0 32).length = 32 ∧
    ([] : Bytes).length < 256 ∧ ([] : Bytes).length < 65536 ∧ (List.replicate 255 (0 : Byte)).length < 256 :=
  ⟨rfl, rfl, rfl, rfl, by decide, by decide, by rw [List.length_replicate]; decide⟩

theorem test_witness_ClientHelloWithServerNameAndTicket :
    State.reset.running ∧ State.reset.peer0.hsState = .start ∧ ([3, 1] : Bytes).length = 2 ∧ (count 0 32).length = 32 ∧
    ([] : Bytes).length < 256 ∧ ([0, 0x2f] : Bytes).length < 65536 ∧ ([0] : Bytes).length < 256 ∧
    (1 : BitVec 16) ≠ 0 ∧ (1 : BitVec 16) ≠ 35 ∧ (36 : BitVec 16) ≠ 35 ∧
    ([] : Bytes).length + ([0x61] : Bytes).length + ([] : Bytes).length < 65000 :=
  ⟨rfl, rfl, rfl, rfl, by decide, by decide, by decide, by decide, by decide, by decide, by decide⟩

theorem test_witness_ServerHelloIsAccepted :
    State.reset.running ∧ State.reset.peer1.hsState = .start ∧ (count 0x20 32).length = 32 ∧ ([] : Bytes).length < 256 ∧
    (State.reset.params.suiteTable.map (·.1)).Nodup ∧ ((0x002F : BitVec 16), aesRow.2) ∈ State.reset.params.suiteTable ∧
    aesRow.2.keyExchangeIsRsa = true := ⟨rfl, rfl, rfl, by decide, by decide, by decide, rfl⟩

theorem test_witness_ServerHelloIsRejected :
    State.reset.running ∧ State.reset.peer1.hsState = .start ∧ (State.reset.params.suiteTable.map (·.1)).Nodup ∧
    (∀ p, ((0x1234 : BitVec 16), p) ∉ State.reset.params.suiteTable) ∧
    ((0x0033 : BitVec 16), (blockRow 0x0033 .aes 16 16 false).2) ∈ State.reset.params.suiteTable ∧
    (blockRow 0x0033 .aes 16 16 false).2.keyExchangeIsRsa = false := by
  refine ⟨rfl, rfl, by decide, fun p h => ?_, by decide, rfl⟩
  have h' : (0x1234 : BitVec 16) ∈ State.reset.params.suiteTable.map (·.1) := List.mem_map_of_mem (f := (·.1)) h
  revert h'
  decide

theorem test_witness_ClientKeyExchangeRecoversThePremaster :
    State.reset.running ∧ State.reset.conn.premasterSet = false ∧ ([] : Bytes).length < 65536 := ⟨rfl, rfl, by decide⟩

theorem test_witness_NewSessionTicketIsKept :
    State.reset.running ∧ ([0, 0, 0, 0] : Bytes).length = 4 ∧ ([] : Bytes).length < 65536 := ⟨rfl, rfl, by decide⟩

theorem test_witness_DuplicateMessageDisables :
    (readyState 0x0301 nullRow).running ∧ (readyState 0x0301 nullRow).peer0.hsState ≠ .start ∧
    (readyState 0x0301 nullRow).peer1.hsState ≠ .start ∧ (readyState 0x0301 nullRow).conn.premasterSet = true :=
  ⟨rfl, by decide, by decide, rfl⟩

/-- The longest bodies that are too short, and the shortest. -/
theorem test_witness_ShortBodiesAreMalformed :
    State.reset.running ∧ State.reset.peer0.hsState = .start ∧ (List.replicate 37 (0 : Byte)).length < 38 ∧
    State.reset.peer1.hsState = .start ∧
    (List.replicate 37 (0 : Byte)).length < 38 + (byteAt (List.replicate 37 (0 : Byte)) 34).toNat ∧
    State.reset.conn.premasterSet = false ∧ ([0, 5, 1, 2, 3, 4] : Bytes).length < 2 + beNat (([0, 5, 1, 2, 3, 4] : Bytes).take 2) ∧
    ([0, 0, 0, 0, 0, 1] : Bytes).length < 6 + beNat ((([0, 0, 0, 0, 0, 1] : Bytes).drop 4).take 2) ∧
    ([0] : Bytes).length = 1 ∧ (2 ≤ ([0, 1] : Bytes).length ∧ ([0, 1] : Bytes).length < 2 + beNat (([0, 1] : Bytes).take 2)) :=
  ⟨rfl, rfl, by decide, rfl, by decide, rfl, by decide, by decide, rfl, by decide⟩

/-- A ClientHello that ends in each of its fields: no session id length, one of one byte that is not there, half a cipher-suite list
length, a list one byte short, no compression list, one byte after it, an extensions block one byte short, an extension one byte
short. -/
theorem test_witness_ShortBodiesAreMalformed_clientHello :
    State.reset.running ∧ State.reset.peer0.hsState = .start ∧ (List.replicate 34 (0 : Byte)).length = 34 ∧
    ([] : Bytes).length < 1 + (byteAt [] 0).toNat ∧ ([1] : Bytes).length < 1 + (byteAt [1] 0).toNat ∧
    ([0] : Bytes).length < 2 + beNat (([0] : Bytes).take 2) ∧ ([0, 1] : Bytes).length < 2 + beNat (([0, 1] : Bytes).take 2) ∧
    ([0] : Bytes).length = 1 ∧ 2 ≤ ([0, 1] : Bytes).length ∧
    ([0, 35, 0, 1] : Bytes) ≠ [] ∧ ([0, 35, 0, 1] : Bytes).length < 65536 ∧
    decode .extension [0, 35, 0, 1] = .error .lengthOverrun :=
  ⟨rfl, rfl, List.length_replicate, by decide, by decide, by decide, by decide, rfl, by decide, by decide, by decide,
    by decide +kernel⟩

theorem test_witness_ExtensionsAndEntriesWriteTheHelloVariables :
    State.reset.running ∧ State.reset.work.found = false ∧
    ({ State.reset with work := { sni := [0x61], ticket := [], found := true } } : State).running ∧
    ({ State.reset with work := { sni := [0x61], ticket := [], found := true } } : State).work.found = true :=
  ⟨rfl, rfl, rfl, rfl⟩

end Sys2Proof.Tests
end

/-! ### Steps: a request that holds an instruction is run (R3, R93) -/
namespace Sys2Proof.Machine

/-- No format reads an instruction from nothing: every one has at least one header byte. -/
theorem ne_nil_of_decode_ok {c : Context} {bs x : Bytes} {i : Instr} (h : decode c bs = .ok (i, x)) : bs ≠ [] := by
  rintro rfl
  cases c with
  | command p => simp [decode, decodeCommand] at h
  | record d hs => simp [decode, decodeRecord, splitFrame] at h
  | message d => simp [decode, decodeMessage, splitFrame] at h
  | extension => simp [decode, decodeExtension, splitFrame] at h
  | sniEntry => simp [decode, decodeSniEntry, splitFrame] at h

theorem fetchCommand_of_decode_ok {p : Params} {bs x : Bytes} {i : Instr} (h : decode (.command p) bs = .ok (i, x)) :
    fetchCommand p bs = .run i := by
  simp only [fetchCommand, h]

theorem fetchMessage_of_decode_ok {d : Dir} {bs x : Bytes} {i : Instr} (s : State)
    (h : decode (.message d) bs = .ok (i, x)) : fetchMessage d bs s = .run i := by
  obtain ⟨b, tail, rfl⟩ := List.exists_cons_of_ne_nil (ne_nil_of_decode_ok h)
  simp only [fetchMessage, h]

theorem fetchHelloPart_of_decode_ok {c : Context} {bs x : Bytes} {i : Instr} (s : State)
    (h : decode c bs = .ok (i, x)) : fetchHelloPart c bs s = .run i := by
  obtain ⟨b, tail, rfl⟩ := List.exists_cons_of_ne_nil (ne_nil_of_decode_ok h)
  simp only [fetchHelloPart, h]

theorem step_of_fetch_run {s : State} {r : Request} {rest : List Request} {i : Instr} (hp : s.pending = r :: rest)
    (hf : fetch r { s with pending := rest } = .run i) : step s = exec i { s with pending := rest } := by
  simp only [step, hp, hf]

/-- Settles O6: each of the four requests fetches the instruction its bytes decode to, and a step runs what was fetched. -/
theorem stepRunsTheRequestedInstruction : Obligations.StepRunsTheRequestedInstruction := by
  intro s bs x i rest
  refine ⟨fun p hp h => ?command, fun d hp h => ?message, fun hp h => ?extension, fun hp h => ?sniEntry⟩
  case command => exact step_of_fetch_run hp (fetchCommand_of_decode_ok h)
  case message => exact step_of_fetch_run hp (fetchMessage_of_decode_ok _ h)
  case extension => exact step_of_fetch_run hp (fetchHelloPart_of_decode_ok _ h)
  case sniEntry => exact step_of_fetch_run hp (fetchHelloPart_of_decode_ok _ h)

/-! ### The lengths of the expansions (R7, R205, R209, R212) -/

/-- The number of bytes of a digest of `hash`, and of `hmac`, with this algorithm (R13). -/
def digestLen : MacAlg → Nat
  | .md5 => 16
  | .sha1 => 20

theorem digestLen_pos (alg : MacAlg) : 0 < digestLen alg := by cases alg <;> decide

@[simp] theorem length_hash (alg : MacAlg) (m : Bytes) : (hash alg m).length = digestLen alg := by
  cases alg <;> exact Vector.length_toList

@[simp] theorem length_hmac (alg : MacAlg) (key m : Bytes) : (hmac alg key m).length = digestLen alg := by
  cases alg <;> exact Vector.length_toList

@[simp] theorem length_xorBytes (a b : Bytes) : (xorBytes a b).length = min a.length b.length := List.length_zipWith

@[simp] theorem length_ssl3Round (secret seed : Bytes) (i : Nat) : (ssl3Round secret seed i).length = 16 :=
  length_hash .md5 _

/-- Up to the bound of R214 the `(n + 15) / 16` rounds of 16 bytes reach `n`; past it the free value has the length (log entry 7). -/
@[simp] theorem length_ssl3Expand (secret seed : Bytes) (n : Nat) : (ssl3Expand secret seed n).length = n := by
  unfold ssl3Expand
  split
  · have rounds : n ≤ (n + 15) / 16 * 16 := by omega
    simpa [List.length_flatMap] using rounds
  · exact Vector.length_toList

/-- Every round of P_hash adds a whole digest, so fuel for the bytes still missing is enough (R213). -/
theorem le_length_pHashLoop (alg : MacAlg) (secret seed : Bytes) (n fuel : Nat) (a out : Bytes)
    (h : n ≤ out.length + fuel) : n ≤ (pHashLoop alg secret seed n fuel a out).length := by
  induction fuel generalizing a out with
  | zero => exact h
  | succ fuel ih =>
    unfold pHashLoop
    split
    · have grows := digestLen_pos alg
      apply ih
      simp only [List.length_append, length_hmac]
      omega
    · omega

@[simp] theorem length_pHash (alg : MacAlg) (secret seed : Bytes) (n : Nat) : (pHash alg secret seed n).length = n :=
  List.length_take_of_le (le_length_pHashLoop alg secret seed n n seed [] (Nat.le_add_left n _))

@[simp] theorem length_prf (secret label seed : Bytes) (n : Nat) : (prf secret label seed n).length = n := by
  simp [prf]

@[simp] theorem length_masterSecret (cls : VersionClass) (c : Conn) : (masterSecret cls c).length = 48 := by
  unfold masterSecret
  split
  · exact length_ssl3Expand _ _ 48
  · exact length_prf _ _ _ 48

@[simp] theorem length_keyBlock (cls : VersionClass) (mode : SeedMode) (c : Conn) (ms : Bytes) (n : Nat) :
    (keyBlock cls mode c ms n).length = n := by
  unfold keyBlock
  split
  · cases mode with
    | standard => exact length_ssl3Expand _ _ n
    | literal => exact length_ssl3Expand _ _ n
  · exact length_prf _ _ _ n

/-- Settles O40: `ssl3Expand` and `prf` give the length asked for, whatever the version class. -/
theorem expansionsHaveTheirLengths : Obligations.ExpansionsHaveTheirLengths :=
  fun cls mode c ms n => ⟨length_masterSecret cls c, length_keyBlock cls mode c ms n⟩

end Sys2Proof.Machine

/-! ### The writes of the rules

Every rule for a record, a message, an extension or a list entry is a chain of a few kinds of register writes. What the engine's
registers keep is read off these kinds, once for each. The first ChangeCipherSpec step of a direction is not among them: it alone
moves a direction past its ChangeCipherSpec (R145), and stands with the moves further below. -/
namespace Sys2Proof.Machine

/-- One write of a rule, with what the rule has checked before it. `K` is what is known wherever a decryption writes a key bank:
`False` for a rule that never decrypts. -/
inductive Write (K : Prop) (s : State) : State → Prop
  /-- an output event (R11) -/
  | emit (e : Event) : Write K s (s.emit e)
  /-- the variables of a ClientHello in progress (R170, R183) -/
  | work (w : Work) : Write K s { s with work := w }
  /-- an accepted ClientHello (R170) -/
  | clientHello (f : ClientHelloFields) (start : s.peer0.hsState = .start) (len : f.random.length = 32) :
      Write K s (commitClientHello f s)
  /-- the fields of a ServerHello (R172) -/
  | serverFields (f : ServerHelloFields) (start : s.peer1.hsState = .start) (len : f.random.length = 32) :
      Write K s (populateServerHello f s)
  /-- an accepted ServerHello (R172, R173) -/
  | serverHello (l : LoadedSuite) (start : s.peer1.hsState = .start) (rsa : l.suite.keyExchangeIsRsa = true) :
      Write K s (acceptServerHello l s)
  /-- the encrypted premaster (R174) -/
  | encrypted (enc : Bytes) (unset : s.conn.premasterSet = false) :
      Write K s { s with conn := { s.conn with premasterSecret := enc } }
  /-- the recovered premaster (R200) -/
  | premaster (pm : Bytes) (len : pm.length = 48) :
      Write K s { s with conn := { s.conn with premasterSecret := pm, premasterSet := true } }
  /-- a session ticket (R175) -/
  | ticket (x : Bytes) : Write K s { s with conn := { s.conn with serverTicket := x } }
  /-- the derived keys (R145, R203) -/
  | keys (cls : VersionClass) (d : Dir) (ready : s.conn.ready = true) (hcls : versionClass s.conn.version = cls)
      (derives : cls = .sslv3 ∨ cls = .tls10 ∨ cls = .tls11) :
      Write K s { deriveKeys cls d s with conn := { (deriveKeys cls d s).conn with keyScheduleDone := true } }
  /-- the key bank after a decryption (R230) -/
  | bank (d : Dir) (k : KeyBank) (known : K) (stream : s.suite.family = .stream → k.streamState.isSome = true) :
      Write K s (s.setKeys d k)
  /-- the first protected handshake record (R151) -/
  | finished (d : Dir) (seen : (s.peer d).hsState = .changeCipherSpecSeen) : Write K s (s.setHs d .finished)

/-- A chain of writes. -/
abbrev Writes (K : Prop) : State → State → Prop :=
  Relation.ReflTransGen (Write K)

theorem Write.weaken {K L : Prop} (h : K → L) {s t : State} : Write K s t → Write L s t
  | .emit e => .emit e
  | .work w => .work w
  | .clientHello f start len => .clientHello f start len
  | .serverFields f start len => .serverFields f start len
  | .serverHello l start rsa => .serverHello l start rsa
  | .encrypted enc unset => .encrypted enc unset
  | .premaster pm len => .premaster pm len
  | .ticket x => .ticket x
  | .keys cls d ready hcls derives => .keys cls d ready hcls derives
  | .bank d k known stream => .bank d k (h known) stream
  | .finished d seen => .finished d seen

theorem Writes.weaken {K L : Prop} (h : K → L) {s t : State} (w : Writes K s t) : Writes L s t :=
  Relation.ReflTransGen.mono (fun _ _ => Write.weaken h) s t w

/-- No write touches what no rule touches. -/
theorem Write.frame {K : Prop} {s t : State} (w : Write K s t) : RuleFrame s t := by
  cases w with
  | emit e => exact .emit s e
  | work w => exact .withWork s w
  | clientHello f => exact commitClientHello_frame f s
  | serverFields f => exact populateServerHello_frame f s
  | serverHello l => exact acceptServerHello_frame l s
  | encrypted enc => exact .withConn s _
  | premaster pm => exact .withConn s _
  | ticket x => exact .withConn s _
  | keys cls d => exact (deriveKeys_frame cls d s).trans (.withConn _ _)
  | bank d k => exact .setKeys s d k
  | finished d => exact .setHs s d _

theorem Writes.frame {K : Prop} {s t : State} (w : Writes K s t) : RuleFrame s t := by
  induction w with
  | refl => exact .refl s
  | tail _ last ih => exact ih.trans last.frame

/-! ### Which writes each rule makes -/

section Rules
variable {K : Prop}

theorem length_fst_of_need {k : Nat} {bs : Bytes} {r : Bytes × Bytes} (h : need k bs = some r) : r.1.length = k := by
  unfold need at h
  split at h
  · cases h
    exact List.length_take_of_le ‹_›
  · cases h

theorem length_random_of_parseClientHello {body : Bytes} {f : ClientHelloFields} (h : parseClientHello body = some f) :
    f.random.length = 32 := by
  simp only [parseClientHello, Option.bind_eq_bind, Option.bind_eq_some_iff] at h
  obtain ⟨_, _, random, hrandom, _, _, _, _, _, _, _, _, hf⟩ := h
  cases hf
  exact length_fst_of_need hrandom

theorem length_random_of_parseServerHello {body : Bytes} {f : ServerHelloFields} (h : parseServerHello body = some f) :
    f.random.length = 32 := by
  simp only [parseServerHello, Option.bind_eq_bind, Option.bind_eq_some_iff] at h
  obtain ⟨_, _, random, hrandom, _, _, _, _, _, _, hf⟩ := h
  cases hf
  exact length_fst_of_need hrandom

/-- `t` is `s` with other variables of the ClientHello in progress. -/
def WorkOnly (s t : State) : Prop :=
  ∃ w, t = { s with work := w }

namespace WorkOnly

theorem refl (s : State) : WorkOnly s s := ⟨s.work, rfl⟩

theorem trans {s t u : State} (h : WorkOnly s t) (k : WorkOnly t u) : WorkOnly s u := by
  obtain ⟨v, rfl⟩ := h
  obtain ⟨w, rfl⟩ := k
  exact ⟨w, rfl⟩

theorem peer {s t : State} (h : WorkOnly s t) (d : Dir) : t.peer d = s.peer d := by
  obtain ⟨w, rfl⟩ := h
  exact peer_with_work s w d

theorem writes {s t : State} (h : WorkOnly s t) : Writes K s t := by
  obtain ⟨w, rfl⟩ := h
  exact .single (.work w)

end WorkOnly

theorem hostNameEntry_workOnly (name : Bytes) (s : State) : WorkOnly s (hostNameEntry name s).2 := by
  unfold hostNameEntry
  split
  · exact .refl s
  · exact ⟨_, rfl⟩

theorem sniEntry_workOnly (ty : Byte) (name : Bytes) (s : State) : WorkOnly s (sniEntry ty name s).2 := by
  unfold sniEntry
  split
  · exact hostNameEntry_workOnly name s
  · exact .refl s

theorem sniLoop_workOnly (fuel : Nat) (list : Bytes) (s : State) : WorkOnly s (sniLoop fuel list s).2 := by
  induction fuel generalizing list s with
  | zero => exact .refl s
  | succ fuel ih =>
    cases list with
    | nil => exact .refl s
    | cons b bs =>
      simp only [sniLoop]
      split
      case h_1 => exact .refl s
      case h_2 h name rest _ =>
        have entry := sniEntry_workOnly (byteAt h 0) name s
        split <;> rename_i answer <;> rw [answer] at entry
        · exact entry.trans (ih _ _)
        · exact entry
        · exact entry

theorem serverNameExt_workOnly (data : Bytes) (s : State) : WorkOnly s (serverNameExt data s).2 := by
  unfold serverNameExt
  split
  · exact .refl s
  · split
    · exact .refl s
    · exact .trans ⟨_, rfl⟩ (sniLoop_workOnly _ _ _)

theorem extensionByType_workOnly (ty : Nat) (data : Bytes) (s : State) : WorkOnly s (extensionByType ty data s).2 := by
  unfold extensionByType
  split
  · exact serverNameExt_workOnly data s
  · exact ⟨_, rfl⟩
  · exact .refl s

theorem extensionsLoop_workOnly (fuel : Nat) (ext : Bytes) (s : State) : WorkOnly s (extensionsLoop fuel ext s).2 := by
  induction fuel generalizing ext s with
  | zero => exact .refl s
  | succ fuel ih =>
    cases ext with
    | nil => exact .refl s
    | cons b bs =>
      simp only [extensionsLoop]
      split
      case h_1 => exact .refl s
      case h_2 h data rest _ =>
        have extension := extensionByType_workOnly (beNat (h.take 2)) data s
        split <;> rename_i answer <;> rw [answer] at extension
        · exact extension.trans (ih _ _)
        · exact extension
        · exact extension

theorem clientHelloFields_writes (f : ClientHelloFields) (s : State) (start : s.peer0.hsState = .start)
    (len : f.random.length = 32) : Writes K s (clientHelloFields f s).2 := by
  have loop : WorkOnly s (extensionsLoop (f.ext.getD []).length (f.ext.getD []) (startWork s)).2 :=
    .trans ⟨_, rfl⟩ (extensionsLoop_workOnly _ _ _)
  unfold clientHelloFields
  split <;> rename_i answer <;> rw [answer] at loop
  · have start' := (congrArg Peer.hsState (loop.peer .clientToServer)).trans start
    exact loop.writes.tail (.clientHello f start' len)
  · exact loop.writes
  · exact loop.writes

theorem clientHello_writes (d : Dir) (body : Bytes) (s : State) : Writes K s (clientHello d body s).2 := by
  unfold clientHello
  split
  · exact .refl
  · split
    · exact .refl
    case isFalse start =>
      split
      case h_1 => exact .refl
      case h_2 f parsed =>
        exact clientHelloFields_writes f s (not_not.mp start) (length_random_of_parseClientHello parsed)

theorem keyExchangeIsRsa_of_lookupSuite {cs : BitVec 16} {table : List (BitVec 16 × CipherSuiteParams)} {l : LoadedSuite}
    (h : lookupSuite cs table = .ok l) : l.suite.keyExchangeIsRsa = true := by
  unfold lookupSuite at h
  split at h
  · cases h
  · split at h
    · cases h
      assumption
    · cases h

theorem serverHello_writes (d : Dir) (body : Bytes) (s : State) : Writes K s (serverHello d body s).2 := by
  unfold serverHello
  split
  · exact .refl
  · split
    · exact .refl
    case isFalse start =>
      split
      case h_1 => exact .refl
      case h_2 f parsed =>
        have fields : Write K s (populateServerHello f s) :=
          .serverFields f (not_not.mp start) (length_random_of_parseServerHello parsed)
        split
        case h_1 => exact .single fields
        case h_2 l found =>
          exact .tail (.single fields) (.serverHello l (not_not.mp start) (keyExchangeIsRsa_of_lookupSuite found))

theorem premasterRecover_writes (enc : Bytes) (s : State) : Writes K s (premasterRecover enc s).2 := by
  unfold premasterRecover
  split
  · exact .refl
  · split
    · exact .single (.premaster _ ‹_›)
    · exact .refl

theorem clientKeyExchange_writes (d : Dir) (body : Bytes) (s : State) : Writes K s (clientKeyExchange d body s).2 := by
  unfold clientKeyExchange
  split
  · exact .refl
  · split
    · exact .refl
    case isFalse unset =>
      split
      case h_1 => exact .refl
      case h_2 enc _ =>
        exact .trans (.single (.encrypted enc (Bool.eq_false_of_not_eq_true unset))) (premasterRecover_writes enc _)

theorem newSessionTicket_writes (d : Dir) (body : Bytes) (s : State) : Writes K s (newSessionTicket d body s).2 := by
  unfold newSessionTicket
  split
  · exact .refl
  · split
    · exact .refl
    · exact .single (.ticket _)

theorem handshakeMessage_writes (d : Dir) (ty : Byte) (body : Bytes) (s : State) :
    Writes K s (handshakeMessage d ty body s).2 := by
  unfold handshakeMessage
  split
  · exact clientHello_writes d body s
  · exact serverHello_writes d body s
  · exact newSessionTicket_writes d body s
  · exact clientKeyExchange_writes d body s
  all_goals exact .refl

theorem messagesLoop_writes (d : Dir) (fuel : Nat) (payload : Bytes) (s : State) :
    Writes K s (messagesLoop d fuel payload s).2 := by
  induction fuel generalizing payload s with
  | zero => exact .refl
  | succ fuel ih =>
    cases payload with
    | nil => exact .refl
    | cons b bs =>
      simp only [messagesLoop]
      split
      case h_1 => exact .refl
      case h_2 h body rest _ =>
        have message := handshakeMessage_writes (K := K) d (byteAt h 0) body s
        split <;> rename_i answer <;> rw [answer] at message
        · exact (message.tail (.emit _)).trans (ih _ _)
        · exact message
        · exact message

/-- Bulk decryption with a stream cipher leaves a stream state (R233). -/
theorem streamState_decryptBody (cls : VersionClass) (mode : PaddingCheck) {p : CipherSuiteParams} (k : KeyBank)
    (payload : Bytes) (h : p.family = .stream) : (decryptBody cls mode p k payload).1.streamState.isSome = true := by
  simp only [decryptBody, h, Option.isSome_some]

@[simp] theorem suite_setKeys (s : State) (d : Dir) (k : KeyBank) : (s.setKeys d k).suite = s.suite := by cases d <;> rfl

theorem acceptBody_writes (known : K) (cls : VersionClass) (p : CipherSuiteParams) (d : Dir) (ty a b : Byte) (body : Bytes)
    (s : State) (stream : s.suite.family = .stream → (s.peer d).keys.streamState.isSome = true) :
    Writes K s (acceptBody cls p d ty a b body s).2 := by
  unfold acceptBody
  split
  · exact .refl
  · split
    · exact .refl
    · exact .tail (.single (.bank d { (s.peer d).keys with seq := (s.peer d).keys.seq + 1 } known stream)) (.emit _)

theorem decrypt_writes (known : K) (d : Dir) (ty a b : Byte) (payload : Bytes) (s : State) :
    Writes K s (decrypt d ty a b payload s).2 := by
  have stream (h : s.suite.family = .stream) :=
    streamState_decryptBody (versionClass s.conn.version) s.params.paddingCheck (s.peer d).keys payload h
  unfold decrypt
  split <;> rename_i answer <;> rw [answer] at stream
  · exact .single (.bank d _ known stream)
  · exact .trans (.single (.bank d _ known stream)) (acceptBody_writes known _ _ d ty a b _ _ (by simpa using stream))

theorem handshakeEnc_writes (known : K) (d : Dir) (a b : Byte) (payload : Bytes) (s : State) :
    Writes K s (handshakeEnc d a b payload s).2 := by
  have decrypted := decrypt_writes known d 22 a b payload s
  unfold handshakeEnc
  split <;> rename_i answer <;> rw [answer] at decrypted
  · split
    · exact decrypted.tail (.finished d ‹_›)
    · exact decrypted
  · exact decrypted
  · exact decrypted

theorem applicationData_writes (d : Dir) (a b : Byte) (payload : Bytes) (s : State)
    (known : s.conn.keyScheduleDone = true → K) : Writes K s (applicationData d a b payload s).2 := by
  unfold applicationData
  split
  · split
    · exact decrypt_writes (known ‹_›) d 23 a b payload s
    · exact .refl
  · split <;> exact .refl

/-- The rules of every content type but ChangeCipherSpec's (R134). They decrypt in a direction past its ChangeCipherSpec, and
application data once the key schedule is done. -/
theorem dispatch_writes (d : Dir) (ty a b : Byte) (payload : Bytes) (s : State) (notCcs : ty.toNat ≠ 20)
    (known : (s.peer d).hsState.reachedCcs = true ∨ s.conn.keyScheduleDone = true → K) :
    Writes K s (dispatch d ty a b payload s).2 := by
  unfold dispatch
  split
  · split
    · exact handshakeEnc_writes (known (.inl ‹_›)) d a b payload s
    · exact messagesLoop_writes d _ payload s
  · exact absurd ‹_› notCcs
  · split
    · exact decrypt_writes (known (.inl ‹_›)) d 21 a b payload s
    · exact .single (.emit _)
  · exact applicationData_writes d a b payload s fun done => known (.inr done)
  · exact .refl

/-- A ChangeCipherSpec on a ready engine derives the keys unless they are there, or refuses the version (R145, R203, R210). -/
theorem ccsReady_cases (d : Dir) (s : State) (ready : s.conn.ready = true) :
    (∃ t, ccsReady d s = (.done, t) ∧ t.conn.keyScheduleDone = true ∧ Writes K s t) ∨
    (∃ e, ccsReady d s = (.fatal e, s)) := by
  unfold ccsReady
  by_cases done : s.conn.keyScheduleDone = true
  · exact .inl ⟨_, if_pos done, done, .single (.emit _)⟩
  · rw [if_neg done]
    obtain ⟨cls, hcls, derives, derived⟩ | ⟨_, refused⟩ | ⟨_, refused⟩ := keySchedule_cases d s
    · rw [derived]
      exact .inl ⟨_, rfl, rfl, .tail (.single (.keys cls d ready hcls derives)) (.emit _)⟩
    · exact .inr ⟨_, by rw [refused]⟩
    · exact .inr ⟨_, by rw [refused]⟩

/-- A ChangeCipherSpec moves its direction past it; then keys are there, or the record is held, or the engine fails (R145, R146). -/
theorem changeCipherSpec_cases (d : Dir) (s : State) :
    ∃ u, u = s.setHs d (hsMax (s.peer d).hsState .changeCipherSpecSeen) ∧
      ((∃ t, changeCipherSpec d s = (.done, t) ∧ t.conn.keyScheduleDone = true ∧ Writes K u t) ∨
       changeCipherSpec d s = (.wait, u) ∨ ∃ e, changeCipherSpec d s = (.fatal e, u)) := by
  refine ⟨_, rfl, ?_⟩
  unfold changeCipherSpec
  split
  case isTrue ready =>
    obtain done | ⟨e, refused⟩ := ccsReady_cases (K := K) d (s.setHs d (hsMax (s.peer d).hsState .changeCipherSpecSeen))
      (by rwa [conn_setHs])
    · exact .inl done
    · exact .inr (.inr ⟨e, refused⟩)
  case isFalse =>
    split
    · exact .inr (.inr ⟨_, rfl⟩)
    · exact .inr (.inl rfl)

end Rules

end Sys2Proof.Machine

/-! ### The moves of the engine

The writes of the rules, and what else an instruction but CREATE can do: the ChangeCipherSpec step, the streams, the exception, the
response, the end. What every move keeps, every such instruction keeps. -/
namespace Sys2Proof.Machine

/-- One move, with what has been checked before it; `K` as for `Write`. -/
inductive Move (K : Prop) (s : State) : State → Prop
  /-- a write of a rule -/
  | write {t : State} (w : Write K s t) : Move K s t
  /-- a ChangeCipherSpec moves its direction past it (R145) -/
  | ccsSeen (d : Dir) : Move K s (s.setHs d (hsMax (s.peer d).hsState .changeCipherSpecSeen))
  /-- `Consume` of available bytes (R52) -/
  | consume (d : Dir) (n : Nat) (available : n ≤ s.avail d) : Move K s (s.advance d n)
  /-- the register writes of a fatal error (R262) -/
  | raise (d : Dir) (e : FatalError) : Move K s (s.raiseError d e)
  /-- `Append` on an open engine (R53, R119) -/
  | append (d : Dir) (bs : Bytes) (opened : s.conn.closed = false) : Move K s (s.append d bs)
  /-- a response to the host (R94) -/
  | respond (r : Response) : Move K s { s with response := r }
  /-- the end of an engine with nothing left to read (R118) -/
  | close (empty : ∀ d, s.avail d = 0) : Move K s { s with conn := { s.conn with closed := true } }

/-- A chain of moves. -/
abbrev Moves (K : Prop) : State → State → Prop :=
  Relation.ReflTransGen (Move K)

theorem Moves.weaken {K L : Prop} (h : K → L) {s t : State} (m : Moves K s t) : Moves L s t := by
  refine Relation.ReflTransGen.mono (fun s t move => ?_) s t m
  cases move with
  | write w => exact .write (w.weaken h)
  | ccsSeen d => exact .ccsSeen d
  | consume d n available => exact .consume d n available
  | raise d e => exact .raise d e
  | append d bs opened => exact .append d bs opened
  | respond r => exact .respond r
  | close empty => exact .close empty

theorem Writes.moves {K : Prop} {s t : State} (w : Writes K s t) : Moves K s t :=
  Relation.ReflTransGen.mono (fun _ _ => .write) s t w

theorem surface_moves {K : Prop} (s : State) (d : Dir) : Moves K s (s.surface d) := by
  unfold State.surface
  split
  · exact .tail (.single (.write (.emit _))) (.consume d _ (by simp))
  · exact .refl

theorem disable_moves {K : Prop} (s : State) (d : Dir) (e : FatalError) : Moves K s (s.disable d e) :=
  ((Relation.ReflTransGen.single (.raise d e)).trans (surface_moves _ d)).trans (surface_moves _ d.other)

/-! ### Every move goes forward (R22, R25, R28) -/

/-- No handshake state of `t` is below that of `s`, no flag of `s` is unset in `t`, and the parameters are those of `s`. -/
structure Advances (s t : State) : Prop where
  rank_le : ∀ d, (s.peer d).hsState.rank ≤ (t.peer d).hsState.rank
  clientRandomSet : s.conn.clientRandomSet = true → t.conn.clientRandomSet = true
  serverRandomSet : s.conn.serverRandomSet = true → t.conn.serverRandomSet = true
  premasterSet : s.conn.premasterSet = true → t.conn.premasterSet = true
  keyScheduleDone : s.conn.keyScheduleDone = true → t.conn.keyScheduleDone = true
  disabled : s.conn.disabled = true → t.conn.disabled = true
  closed : s.conn.closed = true → t.conn.closed = true
  params : t.params = s.params

namespace Advances

theorem refl (s : State) : Advances s s :=
  ⟨fun _ => le_rfl, id, id, id, id, id, id, rfl⟩

theorem trans {s t u : State} (h : Advances s t) (k : Advances t u) : Advances s u where
  rank_le d := (h.rank_le d).trans (k.rank_le d)
  clientRandomSet := k.clientRandomSet ∘ h.clientRandomSet
  serverRandomSet := k.serverRandomSet ∘ h.serverRandomSet
  premasterSet := k.premasterSet ∘ h.premasterSet
  keyScheduleDone := k.keyScheduleDone ∘ h.keyScheduleDone
  disabled := k.disabled ∘ h.disabled
  closed := k.closed ∘ h.closed
  params := k.params.trans h.params

/-- A move that leaves the connection registers alone. -/
theorem of_conn_eq {s t : State} (conn : t.conn = s.conn) (params : t.params = s.params)
    (rank_le : ∀ d, (s.peer d).hsState.rank ≤ (t.peer d).hsState.rank) : Advances s t := by
  constructor <;> simp_all

theorem ready {s t : State} (h : Advances s t) (ready : s.conn.ready = true) : t.conn.ready = true := by
  simp only [Conn.ready, Bool.and_eq_true] at ready ⊢
  obtain ⟨⟨client, server⟩, premaster⟩ := ready
  exact ⟨⟨h.clientRandomSet client, h.serverRandomSet server⟩, h.premasterSet premaster⟩

theorem ne_start {s t : State} (h : Advances s t) (d : Dir) (moved : (s.peer d).hsState ≠ .start) :
    (t.peer d).hsState ≠ .start := by
  intro start
  have rank_le := h.rank_le d
  rw [start] at rank_le
  revert moved rank_le
  cases (s.peer d).hsState <;> decide

theorem setHs (s : State) (d : Dir) (x : HandshakeState) (h : (s.peer d).hsState.rank ≤ x.rank) :
    Advances s (s.setHs d x) := by
  refine of_conn_eq (conn_setHs s d x) (params_setHs s d x) fun e => ?_
  rcases eq_or_eq_other d e with rfl | rfl
  · simpa using h
  · simp

end Advances

@[simp] theorem rank_hsMax (a b : HandshakeState) : (hsMax a b).rank = max a.rank b.rank := by
  unfold hsMax
  split <;> omega

theorem Write.advances {K : Prop} {s t : State} (w : Write K s t) : Advances s t := by
  cases w with
  | emit e => exact .of_conn_eq rfl rfl fun d => by simp
  | work w => exact .of_conn_eq rfl rfl fun d => by simp
  | clientHello f start =>
    have fields : Advances s { s with conn := { s.conn with
        clientRandom := f.random, clientSessionId := f.sessionId,
        compression := clientCompression f.compressionMethods s.conn.compression,
        sni := s.work.sni, clientTicket := s.work.ticket, clientRandomSet := true } } :=
      { Advances.refl s with clientRandomSet := fun _ => rfl }
    exact fields.trans (.setHs _ .clientToServer .sawHello (by rw [peer_with_conn, peer_clientToServer, start]; decide))
  | serverFields f => exact { Advances.refl s with }
  | serverHello l start =>
    have fields : Advances s { s with conn := { s.conn with params := some l, serverRandomSet := true } } :=
      { Advances.refl s with serverRandomSet := fun _ => rfl }
    exact fields.trans (.setHs _ .serverToClient .sawHello (by rw [peer_with_conn, peer_serverToClient, start]; decide))
  | encrypted enc => exact { Advances.refl s with }
  | premaster pm => exact { Advances.refl s with premasterSet := fun _ => rfl }
  | ticket x => exact { Advances.refl s with }
  | keys cls d => exact { Advances.refl s with keyScheduleDone := fun _ => rfl, rank_le := fun e => by cases e <;> exact le_rfl }
  | bank d k => exact .of_conn_eq (by simp) (by simp) fun e => by simp
  | finished d seen => exact .setHs s d .finished (by rw [seen]; decide)

theorem Move.advances {K : Prop} {s t : State} (m : Move K s t) : Advances s t := by
  cases m with
  | write w => exact w.advances
  | ccsSeen d => exact .setHs s d _ (by simp)
  | consume d n => exact .of_conn_eq (by simp) (by simp) fun e => by simp
  | raise d e => exact { Advances.refl s with disabled := fun _ => rfl }
  | append d bs => exact .of_conn_eq (by simp) (by simp) fun e => by simp
  | respond r => exact .of_conn_eq rfl rfl fun d => by simp
  | close => exact { Advances.refl s with closed := fun _ => rfl }

theorem Moves.advances {K : Prop} {s t : State} (m : Moves K s t) : Advances s t := by
  induction m with
  | refl => exact .refl s
  | tail _ last ih => exact ih.trans last.advances

/-! ### Every move keeps the cursors in their buffers (R32) -/

/-- The cursors are in their buffers (R32). -/
def State.cursorsInBuffers (s : State) : Prop :=
  ∀ d, (s.peer d).stream.cursor ≤ (s.peer d).stream.buf.length

theorem cursorsInBuffers_of_stream_eq {s t : State} (stream : ∀ d, (t.peer d).stream = (s.peer d).stream)
    (h : s.cursorsInBuffers) : t.cursorsInBuffers := fun d => by
  rw [stream d]
  exact h d

theorem Move.cursorsInBuffers {K : Prop} {s t : State} (m : Move K s t) (h : s.cursorsInBuffers) : t.cursorsInBuffers := by
  cases m with
  | write w => exact cursorsInBuffers_of_stream_eq w.frame.stream h
  | ccsSeen d => exact cursorsInBuffers_of_stream_eq (fun e => by simp) h
  | consume d n available =>
    intro e
    have inBuffer := h e
    rcases eq_or_eq_other d e with rfl | rfl
    · simp only [State.avail] at available
      simp only [peer_advance_same]
      omega
    · simpa using inBuffer
  | raise d e => exact h
  | append d bs =>
    intro e
    have inBuffer := h e
    rcases eq_or_eq_other d e with rfl | rfl
    · simp only [peer_append_same, List.length_append]
      omega
    · simpa using inBuffer
  | respond r => exact h
  | close => exact h

theorem Moves.cursorsInBuffers {K : Prop} {s t : State} (m : Moves K s t) (h : s.cursorsInBuffers) : t.cursorsInBuffers := by
  induction m with
  | refl => exact h
  | tail _ last ih => exact last.cursorsInBuffers ih

end Sys2Proof.Machine

/-! ### Every instruction but CREATE is a chain of moves -/
namespace Sys2Proof.Machine

theorem changeCipherSpec_moves {K : Prop} (d : Dir) (s : State) : Moves K s (changeCipherSpec d s).2 := by
  obtain ⟨u, rfl, ⟨t, done, _, writes⟩ | held | ⟨e, failed⟩⟩ := changeCipherSpec_cases (K := K) d s
  · rw [done]
    exact (Relation.ReflTransGen.single (.ccsSeen d)).trans writes.moves
  · rw [held]
    exact .single (.ccsSeen d)
  · rw [failed]
    exact .single (.ccsSeen d)

theorem dispatch_ccs (d : Dir) {ty : Byte} (a b : Byte) (payload : Bytes) (s : State) (h : ty.toNat = 20) :
    dispatch d ty a b payload s = changeCipherSpec d s := by
  simp only [dispatch, h]

theorem dispatch_moves {K : Prop} (d : Dir) (ty a b : Byte) (payload : Bytes) (s : State)
    (known : ty.toNat ≠ 20 → (s.peer d).hsState.reachedCcs = true ∨ s.conn.keyScheduleDone = true → K) :
    Moves K s (dispatch d ty a b payload s).2 := by
  by_cases ccs : ty.toNat = 20
  · rw [dispatch_ccs d a b payload s ccs]
    exact changeCipherSpec_moves d s
  · exact (dispatch_writes d ty a b payload s ccs (known ccs)).moves

/-! ### Records and the drain -/

theorem runRecord_moves {K : Prop} (d : Dir) (n : Nat) (rule : State → RuleResult × State) (s : State)
    (frame : RuleFrame s (rule s).2) (moves : Moves K s (rule s).2) :
    ∃ progress t, runRecord d n rule s = .next (progress, t) ∧ Moves K s t := by
  obtain ⟨_, passed⟩ | ⟨_, _, short⟩ | ⟨_, enough, ⟨t, done, ran⟩ | ⟨t, held, ran⟩ | ⟨e, t, failed, ran⟩⟩ :=
    runRecord_cases (d := d) (n := n) frame
  · exact ⟨_, _, passed, surface_moves s d⟩
  · exact ⟨_, _, short, .refl⟩
  · rw [done] at frame moves
    exact ⟨_, _, ran, moves.tail (.consume d n (by rwa [frame.avail d]))⟩
  · rw [held] at moves
    exact ⟨_, _, ran, moves⟩
  · rw [failed] at moves
    exact ⟨_, _, ran, moves.trans (disable_moves t d e)⟩

/-- A step of a direction makes moves. It decrypts only a record that is no ChangeCipherSpec, in a direction past its
ChangeCipherSpec or once the key schedule is done. -/
theorem stepDir_moves {K : Prop} (d : Dir) (s : State)
    (known : s.conn.disabled = false → ∀ r, fetchRecord d s = some r → (byteAt r 0).toNat ≠ 20 →
      (s.peer d).hsState.reachedCcs = true ∨ s.conn.keyScheduleDone = true → K) :
    ∃ progress t, stepDir d s = .next (progress, t) ∧ Moves K s t := by
  cases running : s.conn.disabled with
  | true => exact ⟨_, _, stepDir_of_disabled running, surface_moves s d⟩
  | false =>
    cases fetched : fetchRecord d s with
    | none => exact ⟨_, _, stepDir_of_needMoreData running fetched, .refl⟩
    | some r =>
      have ran := runRecord_moves d r.length (dispatch d (byteAt r 0) (byteAt r 1) (byteAt r 2) (r.drop 5)) s
        (dispatch_frame _ _ _ _ _ _) (dispatch_moves _ _ _ _ _ _ (known running r fetched))
      simpa only [stepDir, running, fetched, Bool.false_eq_true, if_false] using ran

section Drain
variable {P : State → Prop}

theorem runDirLoop_keeps (d : Dir) (keeps : ∀ s, P s → ∃ progress t, stepDir d s = .next (progress, t) ∧ P t) (fuel : Nat)
    (progressed : Bool) (s : State) (h : P s) : ∃ p t, runDirLoop d fuel progressed s = .next (p, t) ∧ P t := by
  induction fuel generalizing progressed s with
  | zero => exact ⟨_, _, rfl, h⟩
  | succ fuel ih =>
    obtain ⟨progress, t, stepped, kept⟩ := keeps s h
    cases progress with
    | true => simpa only [runDirLoop, stepped] using ih true t kept
    | false => exact ⟨progressed, t, by simp only [runDirLoop, stepped], kept⟩

theorem drainLoop_keeps (keeps : ∀ d s, P s → ∃ progress t, stepDir d s = .next (progress, t) ∧ P t) (d : Dir) (fuel : Nat)
    (s : State) (h : P s) : ∃ t, drainLoop d fuel s = .next t ∧ P t := by
  induction fuel generalizing s with
  | zero => exact ⟨s, rfl, h⟩
  | succ fuel ih =>
    obtain ⟨p, t, ranFirst, keptFirst⟩ := runDirLoop_keeps d (keeps d) (s.avail d + 1) false s h
    obtain ⟨q, u, ranSecond, keptSecond⟩ := runDirLoop_keeps d.other (keeps d.other) (t.avail d.other + 1) false t keptFirst
    simp only [drainLoop, runDir, ranFirst, ranSecond]
    split
    · exact ih u keptSecond
    · exact ⟨u, rfl, keptSecond⟩

/-- What every step of a direction keeps, a drain keeps (R113), and it ends in a next state. -/
theorem drain_keeps (keeps : ∀ d s, P s → ∃ progress t, stepDir d s = .next (progress, t) ∧ P t) (d : Dir) (s : State)
    (h : P s) : ∃ t, drain d s = .next t ∧ P t :=
  drainLoop_keeps keeps d _ s h

end Drain

/-! ### Messages, extensions and list entries by themselves -/

/-- What a message, an extension or a list entry leaves that is run by itself: writes without a decryption, and then perhaps the
exception (log entry 5). -/
def AfterPart (s t : State) : Prop :=
  Writes False s t ∨ ∃ u d e, Writes False s u ∧ t = u.disable d e

theorem runMessage_afterPart (d : Dir) (ty : Byte) (body : Bytes) {rule : State → RuleResult × State} {s : State}
    (writes : Writes False s (rule s).2) : AfterPart s (runMessage d ty body rule s) := by
  unfold runMessage
  split
  · exact .inl .refl
  · split <;> rename_i answer <;> rw [answer] at writes
    · exact .inl (writes.tail (.emit _))
    · exact .inr ⟨_, _, _, writes, rfl⟩
    · exact .inl writes

theorem runHelloPart_afterPart {rule : State → RuleResult × State} {s : State} (workOnly : WorkOnly s (rule s).2) :
    AfterPart s (runHelloPart rule s) := by
  unfold runHelloPart
  split
  · exact .inl .refl
  · split <;> rename_i answer <;> rw [answer] at workOnly
    · exact .inr ⟨_, _, _, workOnly.writes, rfl⟩
    · exact .inl workOnly.writes
    · exact .inl workOnly.writes

theorem raiseUndecodable_afterPart (d : Dir) (e : FatalError) (s : State) : AfterPart s (raiseUndecodable d e s) := by
  unfold raiseUndecodable
  split
  · exact .inl .refl
  · exact .inr ⟨s, d, e, .refl, rfl⟩

theorem AfterPart.moves {K : Prop} {s t : State} (h : AfterPart s t) : Moves K s t := by
  obtain writes | ⟨u, d, e, writes, rfl⟩ := h
  · exact (writes.weaken False.elim).moves
  · exact (writes.weaken False.elim).moves.trans (disable_moves u d e)

/-! ### The instructions by their kind -/

/-- The instructions that are records (R70, R71). -/
def isRecord : Instr → Bool
  | .ccs .. | .alertPlain .. | .alertProtected .. | .handshakePlain .. | .handshakeProtected .. | .appData ..
  | .recordIllegal .. => true
  | _ => false

/-- What `exec` does with an instruction, by its kind: a record is run by a rule of the record layer; a message, an extension or a
list entry by itself; a command is a command. -/
inductive ExecForm : Instr → Prop
  | record {i : Instr} (d : Dir) (n : Nat) (rule : State → RuleResult × State) (record : isRecord i = true)
      (frame : ∀ s, RuleFrame s (rule s).2) (moves : ∀ s, Moves True s (rule s).2)
      (exec_eq : ∀ s, exec i s = stateOf (runRecord d n rule s)) : ExecForm i
  | part {i : Instr} (exec_next : ∀ s, ∃ t, exec i s = .next t ∧ AfterPart s t) : ExecForm i
  | create (p : Params) : ExecForm (.create p)
  | feed (d : Byte) (bs : Bytes) : ExecForm (.feed d bs)
  | status : ExecForm .status
  | finish : ExecForm .finish
  | cmdIllegal (op : Byte) : ExecForm (.cmdIllegal op)

theorem execForm (i : Instr) : ExecForm i := by
  cases i with
  | ccs d a b p =>
    exact .record d _ (changeCipherSpec d) rfl (changeCipherSpec_frame d) (changeCipherSpec_moves d) fun _ => rfl
  | alertPlain d a b p =>
    exact .record d _ (alertPlain d p) rfl (fun s => .emit s _) (fun _ => .single (.write (.emit _))) fun _ => rfl
  | alertProtected d a b p =>
    exact .record d _ (alertEnc d a b p) rfl (decrypt_frame d 21 a b p) (fun s => (decrypt_writes trivial d 21 a b p s).moves)
      fun _ => rfl
  | handshakePlain d a b p =>
    exact .record d _ (handshakePlain d p) rfl (handshakePlain_frame d p) (fun s => (messagesLoop_writes d _ p s).moves)
      fun _ => rfl
  | handshakeProtected d a b p =>
    exact .record d _ (handshakeEnc d a b p) rfl (handshakeEnc_frame d a b p)
      (fun s => (handshakeEnc_writes trivial d a b p s).moves) fun _ => rfl
  | appData d a b p =>
    exact .record d _ (applicationData d a b p) rfl (applicationData_frame d a b p)
      (fun s => (applicationData_writes d a b p s fun _ => trivial).moves) fun _ => rfl
  | recordIllegal d ty a b p => exact .record d _ illegalRecord rfl .refl (fun _ => .refl) fun _ => rfl
  | hsHelloRequest d body => exact .part fun s => ⟨_, rfl, runMessage_afterPart d 0 body .refl⟩
  | hsClientHello d body => exact .part fun s => ⟨_, rfl, runMessage_afterPart d 1 body (clientHello_writes d body s)⟩
  | hsServerHello d body => exact .part fun s => ⟨_, rfl, runMessage_afterPart d 2 body (serverHello_writes d body s)⟩
  | hsNewSessionTicket d body =>
    exact .part fun s => ⟨_, rfl, runMessage_afterPart d 4 body (newSessionTicket_writes d body s)⟩
  | hsCertificate d body => exact .part fun s => ⟨_, rfl, runMessage_afterPart d 11 body .refl⟩
  | hsServerKeyExchange d body => exact .part fun s => ⟨_, rfl, runMessage_afterPart d 12 body .refl⟩
  | hsCertificateRequest d body => exact .part fun s => ⟨_, rfl, runMessage_afterPart d 13 body .refl⟩
  | hsServerHelloDone d body => exact .part fun s => ⟨_, rfl, runMessage_afterPart d 14 body .refl⟩
  | hsCertificateVerify d body => exact .part fun s => ⟨_, rfl, runMessage_afterPart d 15 body .refl⟩
  | hsClientKeyExchange d body =>
    exact .part fun s => ⟨_, rfl, runMessage_afterPart d 16 body (clientKeyExchange_writes d body s)⟩
  | hsFinished d body => exact .part fun s => ⟨_, rfl, runMessage_afterPart d 20 body .refl⟩
  | hsUnknown d ty body => exact .part fun s => ⟨_, rfl, runMessage_afterPart d ty body .refl⟩
  | extServerName data => exact .part fun s => ⟨_, rfl, runHelloPart_afterPart (serverNameExt_workOnly data s)⟩
  | extSessionTicket data =>
    exact .part fun s => ⟨_, rfl, runHelloPart_afterPart (rule := sessionTicketExt data) ⟨_, rfl⟩⟩
  | extOther ty data => exact .part fun s => ⟨_, rfl, runHelloPart_afterPart (rule := otherExt) (.refl s)⟩
  | sniHostName name => exact .part fun s => ⟨_, rfl, runHelloPart_afterPart (hostNameEntry_workOnly name s)⟩
  | sniOther ty name => exact .part fun s => ⟨_, rfl, runHelloPart_afterPart (rule := otherNameEntry) (.refl s)⟩
  | create p => exact .create p
  | feed d bs => exact .feed d bs
  | status => exact .status
  | finish => exact .finish
  | cmdIllegal op => exact .cmdIllegal op

/-! ### The commands -/

/-- A FEED is refused, or appends and drains; what appending, steps of a direction and responses keep, it keeps (R112, R119). -/
theorem execFeed_keeps {P : State → Prop} (d : Byte) (bs : Bytes) (s : State)
    (responded : ∀ s r, P s → P { s with response := r })
    (appended : ∀ d bs s, s.conn.closed = false → P s → P (s.append d bs))
    (stepped : ∀ d s, P s → ∃ progress t, stepDir d s = .next (progress, t) ∧ P t) (h : P s) :
    ∃ t, execFeed d bs s = .next t ∧ P t := by
  unfold execFeed
  split
  case isTrue => exact ⟨_, rfl, responded s _ h⟩
  case isFalse opened =>
    split
    case h_1 => exact ⟨_, rfl, responded s _ h⟩
    case h_2 dir _ =>
      obtain ⟨t, drained, kept⟩ := drain_keeps stepped dir ((s.respond .ok).append dir bs)
        (appended dir bs _ (by simpa using opened) (responded s _ h))
      exact ⟨t.setResult (feedResult s.conn.disabled t.conn.disabled), by simp only [feedOpen, drained], responded t _ kept⟩

theorem finishOpen_moves {K : Prop} (s : State) : Moves K s (finishOpen s) := by
  have surfaced : Moves K s (((s.respond .ok).surface .clientToServer).surface .serverToClient) :=
    ((Relation.ReflTransGen.single (.respond _)).trans (surface_moves _ _)).trans (surface_moves _ _)
  have empty (d : Dir) : (((s.respond .ok).surface .clientToServer).surface .serverToClient).avail d = 0 := by
    cases d with
    | clientToServer => exact (avail_surface_other _ .serverToClient).trans (avail_surface_same _ _)
    | serverToClient => exact avail_surface_same _ _
  have closed := surfaced.tail (.close empty)
  rwa [conn_surface, conn_surface, conn_respond] at closed

/-- Every instruction but CREATE answers a next state, and gets there by moves. -/
theorem exec_moves (i : Instr) (s : State) (notCreate : ∀ p, i ≠ .create p) : ∃ t, exec i s = .next t ∧ Moves True s t := by
  cases execForm i with
  | record d n rule _ frame moves exec_eq =>
    obtain ⟨_, t, ran, moved⟩ := runRecord_moves d n rule s (frame s) (moves s)
    exact ⟨t, by rw [exec_eq, ran]; rfl, moved⟩
  | part exec_next =>
    obtain ⟨t, ran, after⟩ := exec_next s
    exact ⟨t, ran, after.moves⟩
  | create p => exact absurd rfl (notCreate p)
  | feed d bs =>
    exact execFeed_keeps d bs s (fun _ r moved => moved.tail (.respond r))
      (fun d bs _ opened moved => moved.tail (.append d bs opened))
      (fun d u moved =>
        have ⟨progress, t, stepped, further⟩ := stepDir_moves d u fun _ _ _ _ _ => trivial
        ⟨progress, t, stepped, moved.trans further⟩) .refl
  | status => exact ⟨_, rfl, .single (.respond _)⟩
  | finish =>
    change ∃ t, execFinish s = .next t ∧ _
    unfold execFinish
    split
    · exact ⟨_, rfl, .single (.respond _)⟩
    · exact ⟨_, rfl, (finishOpen_moves s).tail (.respond _)⟩
  | cmdIllegal op => exact ⟨_, rfl, .single (.respond _)⟩

/-- Settles O20: CREATE makes empty streams, and every other instruction is a chain of moves, none of which takes a cursor past the
end of its buffer. -/
theorem noInstructionConsumesPastTheBuffer : Obligations.NoInstructionConsumesPastTheBuffer := by
  intro i s inBuffers
  by_cases create : ∃ p, i = .create p
  · obtain ⟨p, rfl⟩ := create
    exact ⟨_, rfl, fun d => by cases d <;> exact le_rfl⟩
  · obtain ⟨t, ran, moves⟩ := exec_moves i s fun p h => create ⟨p, h⟩
    exact ⟨t, ran, moves.cursorsInBuffers inBuffers⟩

/-- Settles O23: every instruction but CREATE is a chain of moves, and every move goes forward. -/
theorem handshakeStatesAndFlagsNeverGoBack : Obligations.HandshakeStatesAndFlagsNeverGoBack := by
  intro i s t notCreate ran
  obtain ⟨u, ran', moves⟩ := exec_moves i s notCreate
  cases ran.symm.trans ran'
  have forward := moves.advances
  exact ⟨forward.rank_le, forward.clientRandomSet, forward.serverRandomSet, forward.premasterSet, forward.keyScheduleDone,
    forward.disabled, forward.closed, forward.params⟩

end Sys2Proof.Machine

/-! ### The invariant: what every single move keeps

Every clause of the invariant but one is kept by each move. The clause of R152 is not: a ChangeCipherSpec moves its direction on
first and derives the keys after it. It is shown for whole records further below. -/
namespace Sys2Proof.Machine

/-- The clauses of the invariant about the randoms, the secrets, the parameters and the key banks. -/
structure State.SecretsInv (s : State) : Prop where
  random_len : s.conn.clientRandom.length = 32 ∧ s.conn.serverRandom.length = 32
  premaster_len : s.conn.premasterSet = true → s.conn.premasterSecret.length = 48
  suite_set : s.conn.serverRandomSet = true → ∃ l, s.conn.params = some l ∧ l.suite.keyExchangeIsRsa = true
  client_seen : s.conn.clientRandomSet = true → s.peer0.hsState ≠ .start
  server_seen : s.conn.serverRandomSet = true → s.peer1.hsState ≠ .start
  keys_set : s.conn.keyScheduleDone = true → s.keyed
  keys_unset : s.conn.keyScheduleDone = false → s.unkeyed

/-- The clause of the invariant about the error registers (R260, R262). -/
def Conn.errorRegs (c : Conn) : Prop :=
  if c.disabled then c.errorKind ≠ 0 else c.errorKind = 0 ∧ c.errorDetail = 0 ∧ c.errorDir = .clientToServer

/-- The clause of the invariant about a closed engine: nothing is left to read (R118). -/
def State.closedEmpty (s : State) : Prop :=
  s.conn.closed = true → ∀ d, s.avail d = 0

/-- The clauses of the invariant that every single move keeps. -/
structure State.MoveInv (s : State) : Prop where
  cursors : s.cursorsInBuffers
  secrets : s.SecretsInv
  error_regs : s.conn.errorRegs
  closed_empty : s.closedEmpty

/-- The clause of R152, for one direction: past its ChangeCipherSpec it has keys, or is held, or nothing more is read. -/
def State.ccsKeys (s : State) (d : Dir) : Prop :=
  (s.peer d).hsState.reachedCcs = true →
    s.conn.keyScheduleDone = true ∨ s.conn.disabled = true ∨ s.conn.closed = true ∨ s.holdsCcs d

/-- The invariant is what every move keeps, and the clause of R152. -/
theorem inv_iff (s : State) : s.Inv ↔ s.MoveInv ∧ ∀ d, s.ccsKeys d := by
  constructor
  · intro h
    obtain ⟨clientSeen, serverSeen⟩ := h.hello_seen
    exact ⟨⟨h.cursor_le, ⟨h.random_len, h.premaster_len, h.suite_set, clientSeen, serverSeen, h.keys_set, h.keys_unset⟩,
      h.error_regs, h.closed_empty⟩, h.ccs_keys⟩
  · rintro ⟨⟨cursors, secrets, errorRegs, closedEmpty⟩, ccsKeys⟩
    exact ⟨cursors, secrets.random_len, secrets.premaster_len, secrets.suite_set, ⟨secrets.client_seen, secrets.server_seen⟩,
      secrets.keys_set, secrets.keys_unset, errorRegs, ccsKeys, closedEmpty⟩

/-! ### Secrets and keys -/

/-- `t` has the randoms, the secrets, the parameters, their flags and the key banks of `s`. -/
structure SameSecrets (s t : State) : Prop where
  conn : t.conn = { s.conn with
    serverTicket := t.conn.serverTicket, errorKind := t.conn.errorKind, errorDetail := t.conn.errorDetail,
    errorDir := t.conn.errorDir, disabled := t.conn.disabled, closed := t.conn.closed }
  keys : ∀ d, (t.peer d).keys = (s.peer d).keys

theorem SameSecrets.of_conn_eq {s t : State} (conn : t.conn = s.conn) (keys : ∀ d, (t.peer d).keys = (s.peer d).keys) :
    SameSecrets s t :=
  ⟨by rw [conn], keys⟩

theorem suite_of_params_eq {s t : State} (h : t.conn.params = s.conn.params) : t.suite = s.suite := by
  simp only [State.suite, h]

/-- Keys stay derived where the version, the parameters, the master secret and the banks stay. -/
theorem State.keyed.of_eq {s t : State} (h : s.keyed) (ready : t.conn.ready = true)
    (version : t.conn.version = s.conn.version) (params : t.conn.params = s.conn.params)
    (master : t.conn.masterSecret = s.conn.masterSecret) (keys : ∀ d, (t.peer d).keys = (s.peer d).keys) : t.keyed := by
  obtain ⟨_, notTls12, notOther, len, stream⟩ := h
  refine ⟨ready, by rwa [version], by rwa [version], by rwa [master], ?_⟩
  rw [suite_of_params_eq params]
  exact fun family d => by rw [keys d]; exact stream family d

theorem State.unkeyed.of_eq {s t : State} (h : s.unkeyed) (master : t.conn.masterSecret = s.conn.masterSecret)
    (keys : ∀ d, (t.peer d).keys = (s.peer d).keys) : t.unkeyed := by
  obtain ⟨client, server, empty⟩ := h
  exact ⟨(keys .clientToServer).trans client, (keys .serverToClient).trans server, master.trans empty⟩

namespace State.SecretsInv

theorem of_same {s t : State} (h : s.SecretsInv) (same : SameSecrets s t) (forward : Advances s t) : t.SecretsInv := by
  have master : t.conn.masterSecret = s.conn.masterSecret := by rw [same.conn]
  have done : t.conn.keyScheduleDone = s.conn.keyScheduleDone := by rw [same.conn]
  refine ⟨?_, ?_, ?_, ?_, ?_, ?_, ?_⟩
  · rw [same.conn]; exact h.random_len
  · rw [same.conn]; exact h.premaster_len
  · rw [same.conn]; exact h.suite_set
  · rw [same.conn]; exact fun isSet => forward.ne_start .clientToServer (h.client_seen isSet)
  · rw [same.conn]; exact fun isSet => forward.ne_start .serverToClient (h.server_seen isSet)
  · rw [done]
    intro isDone
    have keyed := h.keys_set isDone
    exact keyed.of_eq (forward.ready keyed.1) (by rw [same.conn]) (by rw [same.conn]) master same.keys
  · rw [done]
    exact fun notDone => (h.keys_unset notDone).of_eq master same.keys

theorem ready_of_done {s : State} (h : s.SecretsInv) (done : s.conn.keyScheduleDone = true) :
    s.conn.clientRandomSet = true ∧ s.conn.serverRandomSet = true ∧ s.conn.premasterSet = true := by
  obtain ⟨ready, _⟩ := h.keys_set done
  simpa only [Conn.ready, Bool.and_eq_true, and_assoc] using ready

/-- Before a ServerHello the key schedule is not done (R23, R203). -/
theorem not_done_of_start {s : State} (h : s.SecretsInv) (start : s.peer1.hsState = .start) :
    ¬ s.conn.keyScheduleDone = true := fun done =>
  have ⟨_, serverSet, _⟩ := h.ready_of_done done
  h.server_seen serverSet start

end State.SecretsInv

/-- The banks LoadKeys gives have a stream state for a stream suite (R208). -/
theorem streamState_loadedBank {p : CipherSuiteParams} (mac key iv : Bytes) (stream : p.family = .stream) :
    (loadedBank p mac key iv).streamState.isSome = true := by
  simp only [loadedBank, stream, Option.isSome_some]

/-- The derivation leaves derived keys (R203, R205, R208). -/
theorem keyed_of_deriveKeys (cls : VersionClass) (d : Dir) (s : State) (ready : s.conn.ready = true)
    (hcls : versionClass s.conn.version = cls) (derives : cls = .sslv3 ∨ cls = .tls10 ∨ cls = .tls11) :
    State.keyed { deriveKeys cls d s with conn := { (deriveKeys cls d s).conn with keyScheduleDone := true } } := by
  refine ⟨ready, ?_, ?_, length_masterSecret cls s.conn, fun stream e => ?_⟩
  · change versionClass s.conn.version ≠ .tls12
    rcases derives with rfl | rfl | rfl <;> rw [hcls] <;> decide
  · change versionClass s.conn.version ≠ .other
    rcases derives with rfl | rfl | rfl <;> rw [hcls] <;> decide
  · cases e <;> exact streamState_loadedBank _ _ _ stream

/-- Every write keeps the clauses about secrets and keys, where a decryption happens only with derived keys. -/
theorem Write.secretsInv {K : Prop} {s t : State} (w : Write K s t) (known : K → s.conn.keyScheduleDone = true)
    (h : s.SecretsInv) : t.SecretsInv := by
  have forward := w.advances
  cases w with
  | emit e => exact h.of_same (.of_conn_eq rfl fun d => by simp) forward
  | work w => exact h.of_same (.of_conn_eq rfl fun d => by simp) forward
  | clientHello f start len =>
    obtain ⟨_, serverLen⟩ := h.random_len
    have keys (d : Dir) : ((commitClientHello f s).peer d).keys = (s.peer d).keys := by simp [commitClientHello]
    exact {
      random_len := ⟨len, serverLen⟩
      premaster_len := h.premaster_len
      suite_set := h.suite_set
      client_seen := fun _ => by change HandshakeState.sawHello ≠ .start; decide
      server_seen := h.server_seen
      keys_set := fun done => have keyed := h.keys_set done; keyed.of_eq (forward.ready keyed.1) rfl rfl rfl keys
      keys_unset := fun notDone => (h.keys_unset notDone).of_eq rfl keys }
  | serverFields f start len =>
    obtain ⟨clientLen, _⟩ := h.random_len
    exact { h with
      random_len := ⟨clientLen, len⟩
      keys_set := fun done => absurd done (h.not_done_of_start start)
      keys_unset := fun notDone => (h.keys_unset notDone).of_eq rfl fun _ => by simp [populateServerHello] }
  | serverHello l start rsa =>
    exact {
      random_len := h.random_len
      premaster_len := h.premaster_len
      suite_set := fun _ => ⟨l, rfl, rsa⟩
      client_seen := h.client_seen
      server_seen := fun _ => by change HandshakeState.sawHello ≠ .start; decide
      keys_set := fun done => absurd done (h.not_done_of_start start)
      keys_unset := fun notDone => (h.keys_unset notDone).of_eq rfl fun _ => by simp [acceptServerHello] }
  | encrypted enc unset =>
    exact { h with
      premaster_len := fun isSet => absurd (unset.symm.trans isSet) Bool.false_ne_true
      keys_set := fun done => have ⟨_, _, isSet⟩ := h.ready_of_done done; absurd (unset.symm.trans isSet) Bool.false_ne_true
      keys_unset := fun notDone => (h.keys_unset notDone).of_eq rfl fun _ => by simp }
  | premaster pm len =>
    exact { h with
      premaster_len := fun _ => len
      keys_set := fun done => have keyed := h.keys_set done; keyed.of_eq (forward.ready keyed.1) rfl rfl rfl fun _ => by simp
      keys_unset := fun notDone => (h.keys_unset notDone).of_eq rfl fun _ => by simp }
  | ticket x => exact h.of_same ⟨rfl, fun d => by simp⟩ forward
  | keys cls d ready hcls derives =>
    exact { h with
      keys_set := fun _ => keyed_of_deriveKeys cls d s ready hcls derives
      keys_unset := fun notDone => absurd notDone Bool.false_ne_true.symm }
  | bank d k hK stream =>
    obtain ⟨ready, notTls12, notOther, len, streams⟩ := h.keys_set (known hK)
    have conn := conn_setKeys s d k
    have keyed : (s.setKeys d k).keyed := by
      refine ⟨by rwa [conn], by rwa [conn], by rwa [conn], by rwa [conn], fun family e => ?_⟩
      rw [suite_setKeys] at family
      rcases eq_or_eq_other d e with rfl | rfl
      · simpa using stream family
      · simpa using streams family d.other
    exact {
      random_len := by rw [conn]; exact h.random_len
      premaster_len := by rw [conn]; exact h.premaster_len
      suite_set := by rw [conn]; exact h.suite_set
      client_seen := by
        rw [conn]; exact fun isSet => forward.ne_start .clientToServer (h.client_seen isSet)
      server_seen := by
        rw [conn]; exact fun isSet => forward.ne_start .serverToClient (h.server_seen isSet)
      keys_set := fun _ => keyed
      keys_unset := fun notDone => by
        rw [conn, known hK] at notDone
        exact absurd notDone Bool.false_ne_true.symm }
  | finished d seen => exact h.of_same (.of_conn_eq (by simp) fun e => by simp) forward

theorem Move.secretsInv {K : Prop} {s t : State} (m : Move K s t) (known : K → s.conn.keyScheduleDone = true)
    (h : s.SecretsInv) : t.SecretsInv := by
  have forward := m.advances
  cases m with
  | write w => exact w.secretsInv known h
  | ccsSeen d => exact h.of_same (.of_conn_eq (by simp) fun e => by simp) forward
  | consume d n => exact h.of_same (.of_conn_eq (by simp) fun e => by simp) forward
  | raise d e => exact h.of_same ⟨rfl, fun d => by simp⟩ forward
  | append d bs => exact h.of_same (.of_conn_eq (by simp) fun e => by simp) forward
  | respond r => exact h.of_same (.of_conn_eq rfl fun d => by simp) forward
  | close => exact h.of_same ⟨rfl, fun d => by simp⟩ forward

/-! ### The error registers, and the closed engine -/

theorem Move.errorRegs {K : Prop} {s t : State} (m : Move K s t) (h : s.conn.errorRegs) : t.conn.errorRegs := by
  cases m with
  | write w =>
    have frame := w.frame
    simpa only [Conn.errorRegs, frame.disabled, frame.errorKind, frame.errorDetail, frame.errorDir] using h
  | ccsSeen d => rwa [conn_setHs]
  | consume d n => rwa [conn_advance]
  | raise d e =>
    rw [conn_raiseError]
    exact code_ne_zero e.kind
  | append d bs => rwa [conn_append]
  | respond r => exact h
  | close => exact h

theorem Move.closedEmpty {K : Prop} {s t : State} (m : Move K s t) (h : s.closedEmpty) : t.closedEmpty := by
  intro closed
  cases m with
  | write w => exact fun e => (w.frame.avail e).trans (h (w.frame.closed ▸ closed) e)
  | ccsSeen d => exact fun e => (avail_setHs s d e _).trans (h (by rwa [conn_setHs] at closed) e)
  | consume d n =>
    rw [conn_advance] at closed
    intro e
    have empty := h closed e
    rcases eq_or_eq_other d e with rfl | rfl
    · rw [avail_advance_same]
      omega
    · rwa [avail_advance_other]
  | raise d e => exact fun d' => (avail_raiseError s d e d').trans (h closed d')
  | append d bs opened =>
    rw [conn_append, opened] at closed
    exact absurd closed Bool.false_ne_true
  | respond r => exact fun e => (avail_with_response s r e).trans (h closed e)
  | close empty => exact fun e => (avail_with_conn s _ e).trans (empty e)

theorem Moves.moveInv {K : Prop} {s t : State} (m : Moves K s t) (known : K → s.conn.keyScheduleDone = true)
    (h : s.MoveInv) : t.MoveInv := by
  induction m with
  | refl => exact h
  | tail before last ih =>
    have knownThere (hK : K) := (Moves.advances before).keyScheduleDone (known hK)
    exact ⟨last.cursorsInBuffers ih.cursors, last.secretsInv knownThere ih.secrets, last.errorRegs ih.error_regs,
      last.closedEmpty ih.closed_empty⟩

end Sys2Proof.Machine

/-! ### The invariant: whole steps -/
namespace Sys2Proof.Machine

/-! ### The clause of R152 -/

/-- No write moves a direction past its ChangeCipherSpec (R145). -/
theorem Write.reachedCcs {K : Prop} {s t : State} (w : Write K s t) (d : Dir) (h : (t.peer d).hsState.reachedCcs = true) :
    (s.peer d).hsState.reachedCcs = true := by
  cases w with
  | emit e => simpa using h
  | work w => simpa using h
  | clientHello f start =>
    cases d with
    | clientToServer => exact absurd (show HandshakeState.sawHello.reachedCcs = true from h) (by decide)
    | serverToClient => exact h
  | serverFields f start => simpa [populateServerHello] using h
  | serverHello l start =>
    cases d with
    | clientToServer => exact h
    | serverToClient => exact absurd (show HandshakeState.sawHello.reachedCcs = true from h) (by decide)
  | encrypted enc => simpa using h
  | premaster pm => simpa using h
  | ticket x => simpa using h
  | keys cls d' => cases d <;> exact h
  | bank d' k => simpa using h
  | finished d' seen =>
    rcases eq_or_eq_other d' d with rfl | rfl
    · rw [seen]; rfl
    · simpa using h

theorem Writes.reachedCcs {K : Prop} {s t : State} (w : Writes K s t) (d : Dir)
    (h : (t.peer d).hsState.reachedCcs = true) : (s.peer d).hsState.reachedCcs = true := by
  induction w with
  | refl => exact h
  | tail _ last ih => exact ih (last.reachedCcs d h)

theorem State.ccsKeys.keep {s t : State} {d : Dir} (h : s.ccsKeys d)
    (reached : (t.peer d).hsState.reachedCcs = true → (s.peer d).hsState.reachedCcs = true) (forward : Advances s t)
    (held : s.holdsCcs d → t.holdsCcs d) : t.ccsKeys d := fun reachedNow =>
  (h (reached reachedNow)).imp forward.keyScheduleDone (Or.imp forward.disabled (Or.imp forward.closed held))

theorem ccsKeys_of_done {s : State} {d : Dir} (done : s.conn.keyScheduleDone = true) : s.ccsKeys d := fun _ => .inl done

theorem ccsKeys_of_disabled {s : State} {d : Dir} (disabled : s.conn.disabled = true) : s.ccsKeys d :=
  fun _ => .inr (.inl disabled)

theorem ccsKeys_disable (s : State) (d d' : Dir) (e : FatalError) : (s.disable d' e).ccsKeys d :=
  ccsKeys_of_disabled (by rw [conn_disable])

theorem State.MoveInv.inv_of_disabled {s : State} (h : s.MoveInv) (disabled : s.conn.disabled = true) : s.Inv :=
  (inv_iff s).mpr ⟨h, fun _ => ccsKeys_of_disabled disabled⟩

theorem State.MoveInv.inv_of_closed {s : State} (h : s.MoveInv) (closed : s.conn.closed = true) : s.Inv :=
  (inv_iff s).mpr ⟨h, fun _ _ => .inr (.inr (.inl closed))⟩

theorem holdsCcs_of_stream_eq {s t : State} {d : Dir} (stream : (t.peer d).stream = (s.peer d).stream) (h : s.holdsCcs d) :
    t.holdsCcs d := by
  obtain ⟨r, fetched, ty⟩ := h
  exact ⟨r, (fetchRecord_congr stream).trans fetched, ty⟩

/-! ### Appending -/

/-- Appended bytes do not change what can be peeked already (R51, R53). -/
theorem peek_append {s : State} (inBuffers : s.cursorsInBuffers) (d : Dir) (bs : Bytes) {n : Nat} {x : Bytes}
    (h : s.peek d n = some x) : (s.append d bs).peek d n = some x := by
  obtain ⟨enough, rfl, _⟩ := peek_eq_some h
  have longer : n ≤ (s.append d bs).avail d := by
    rw [avail_append_same s d bs (inBuffers d)]
    omega
  rw [State.peek, if_pos longer, unconsumed_append_same s d bs (inBuffers d),
    List.take_append_of_le_length (by rwa [avail_eq_length])]

theorem fetchRecord_append {s : State} (inBuffers : s.cursorsInBuffers) (d : Dir) (bs : Bytes) {r : Bytes}
    (h : fetchRecord d s = some r) : fetchRecord d (s.append d bs) = some r := by
  unfold fetchRecord at h ⊢
  obtain ⟨hdr, header, record⟩ := Option.bind_eq_some_iff.mp h
  rw [peek_append inBuffers d bs header]
  exact peek_append inBuffers d bs record

theorem holdsCcs_append {s : State} (inBuffers : s.cursorsInBuffers) (d : Dir) (bs : Bytes) {e : Dir} (h : s.holdsCcs e) :
    (s.append d bs).holdsCcs e := by
  rcases eq_or_eq_other d e with rfl | rfl
  · obtain ⟨r, fetched, ty⟩ := h
    exact ⟨r, fetchRecord_append inBuffers e bs fetched, ty⟩
  · exact holdsCcs_of_stream_eq (by rw [peer_append_other]) h

/-- Appending to an open engine keeps the invariant (R53). -/
theorem State.Inv.append {s : State} (h : s.Inv) (d : Dir) (bs : Bytes) (opened : s.conn.closed = false) :
    (s.append d bs).Inv := by
  obtain ⟨moveInv, ccsKeys⟩ := (inv_iff s).mp h
  have move : Move False s (s.append d bs) := .append d bs opened
  refine (inv_iff _).mpr ⟨Moves.moveInv (.single move) False.elim moveInv, fun e => ?_⟩
  exact (ccsKeys e).keep (by simp) move.advances (holdsCcs_append moveInv.cursors d bs)

/-- The invariant speaks of the connection registers and the banks alone. -/
theorem State.Inv.with_response_pending {s : State} (h : s.Inv) (r : Response) (p : List Request) :
    State.Inv { s with response := r, pending := p } :=
  ⟨h.cursor_le, h.random_len, h.premaster_len, h.suite_set, h.hello_seen, h.keys_set, h.keys_unset, h.error_regs, h.ccs_keys,
    h.closed_empty⟩

theorem State.Inv.with_response {s : State} (h : s.Inv) (r : Response) : State.Inv { s with response := r } :=
  h.with_response_pending r s.pending

/-! ### A step of a direction -/

theorem finishRecord_eq_next {d : Dir} {n : Nat} {r : RuleResult} {u t : State} {progress : Bool}
    (h : finishRecord d n (r, u) = .next (progress, t)) :
    (r = .done ∧ t = u.advance d n) ∨ (r = .wait ∧ t = u) ∨ ∃ e, r = .fatal e ∧ t = u.disable d e := by
  cases r with
  | done =>
    obtain ⟨_, consumed⟩ | ⟨_, faulted⟩ := consume_cases u d n
    · simp only [finishRecord, consumed] at h
      cases h
      exact .inl ⟨rfl, rfl⟩
    · simp only [finishRecord, faulted] at h
      cases h
  | wait =>
    cases h
    exact .inr (.inl ⟨rfl, rfl⟩)
  | fatal e =>
    cases h
    exact .inr (.inr ⟨e, rfl, rfl⟩)

/-- After a ChangeCipherSpec record its direction has keys, or the record is held, or the engine is disabled (R145, R146, R152). -/
theorem ccsKeys_after_ccs {d : Dir} {s t : State} {r : Bytes} {progress : Bool} (ccsKeys : ∀ e, s.ccsKeys e)
    (fetched : fetchRecord d s = some r) (ty : byteAt r 0 = 20)
    (ran : finishRecord d r.length (changeCipherSpec d s) = .next (progress, t)) (e : Dir) : t.ccsKeys e := by
  obtain ⟨u, rfl, ⟨v, done, isDone, _⟩ | held | ⟨err, failed⟩⟩ := changeCipherSpec_cases (K := False) d s
  · rw [done] at ran
    obtain ⟨_, rfl⟩ | ⟨absurdity, _⟩ | ⟨_, absurdity, _⟩ := finishRecord_eq_next ran
    · exact ccsKeys_of_done (by rwa [conn_advance])
    · cases absurdity
    · cases absurdity
  · rw [held] at ran
    cases ran
    rcases eq_or_eq_other d e with rfl | rfl
    · exact fun _ => .inr (.inr (.inr (holdsCcs_of_stream_eq (stream_setHs s e e _) ⟨r, fetched, ty⟩)))
    · exact (ccsKeys d.other).keep (by simp) (.setHs s d _ (by simp)) (holdsCcs_of_stream_eq (by simp))
  · rw [failed] at ran
    cases ran
    exact ccsKeys_disable _ e d err

/-- Any other record leaves a held ChangeCipherSpec where it is: it stands at the head of its own stream (R146, R152). -/
theorem ccsKeys_after_writes {K : Prop} {d : Dir} {s t u : State} {r : Bytes} {result : RuleResult} {progress : Bool}
    (ccsKeys : ∀ e, s.ccsKeys e) (fetched : fetchRecord d s = some r) (ty : byteAt r 0 ≠ 20) (writes : Writes K s u)
    (ran : finishRecord d r.length (result, u) = .next (progress, t)) (e : Dir) : t.ccsKeys e := by
  have forward : Advances s u := writes.moves.advances
  have stream := writes.frame.stream
  obtain ⟨_, rfl⟩ | ⟨_, rfl⟩ | ⟨err, _, rfl⟩ := finishRecord_eq_next ran
  · refine (ccsKeys e).keep (fun reached => writes.reachedCcs e (by simpa using reached))
      (forward.trans (.of_conn_eq (by simp) (by simp) fun _ => by simp)) fun held => ?_
    rcases eq_or_eq_other d e with rfl | rfl
    · obtain ⟨r', fetched', ty'⟩ := held
      cases fetched.symm.trans fetched'
      exact absurd ty' ty
    · exact holdsCcs_of_stream_eq (by rw [peer_advance_other, stream]) held
  · exact (ccsKeys e).keep (writes.reachedCcs e) forward (holdsCcs_of_stream_eq (stream e))
  · exact ccsKeys_disable u e d err

/-- A direction past its ChangeCipherSpec that decrypts a record has derived keys (R152). -/
theorem State.Inv.done_of_decrypts {s : State} (h : s.Inv) (d : Dir) (running : s.conn.disabled = false) (r : Bytes)
    (fetched : fetchRecord d s = some r) (notCcs : (byteAt r 0).toNat ≠ 20)
    (known : (s.peer d).hsState.reachedCcs = true ∨ s.conn.keyScheduleDone = true) : s.conn.keyScheduleDone = true := by
  obtain reached | done := known
  · obtain done | disabled | closed | ⟨r', fetched', ty⟩ := h.ccs_keys d reached
    · exact done
    · exact absurd (running.symm.trans disabled) Bool.false_ne_true
    · have empty := h.closed_empty closed d
      obtain ⟨header, buffered, _⟩ := fetchRecord_eq_some fetched
      omega
    · cases fetched.symm.trans fetched'
      exact absurd (congrArg BitVec.toNat ty) notCcs
  · exact done

/-- A step of a direction keeps the invariant (R130). -/
theorem State.Inv.stepDir {s : State} (h : s.Inv) (d : Dir) :
    ∃ progress t, Machine.stepDir d s = .next (progress, t) ∧ t.Inv := by
  obtain ⟨moveInv, ccsKeys⟩ := (inv_iff s).mp h
  obtain ⟨progress, t, stepped, moves⟩ := stepDir_moves d s (h.done_of_decrypts d)
  refine ⟨progress, t, stepped, (inv_iff t).mpr ⟨moves.moveInv id moveInv, fun e => ?_⟩⟩
  cases running : s.conn.disabled with
  | true => exact ccsKeys_of_disabled (moves.advances.disabled running)
  | false =>
    cases fetched : fetchRecord d s with
    | none =>
      rw [stepDir_of_needMoreData running fetched] at stepped
      cases stepped
      exact ccsKeys e
    | some r =>
      rw [stepDir_of_record running fetched] at stepped
      by_cases ty : (byteAt r 0).toNat = 20
      · rw [dispatch_ccs d _ _ _ s ty] at stepped
        exact ccsKeys_after_ccs ccsKeys fetched (BitVec.eq_of_toNat_eq ty) stepped e
      · have writes := dispatch_writes (K := True) d (byteAt r 0) (byteAt r 1) (byteAt r 2) (r.drop 5) s ty fun _ => trivial
        exact ccsKeys_after_writes ccsKeys fetched (fun eq => ty (congrArg BitVec.toNat eq)) writes stepped e

/-! ### The instruction of a step -/

theorem runRecord_congr {d : Dir} {n : Nat} {rule rule' : State → RuleResult × State} {s : State} (h : rule s = rule' s) :
    runRecord d n rule s = runRecord d n rule' s := by
  simp only [runRecord, h]

/-- A record that is read in the handshake state of its direction is run by the rule that dispatch chooses (R71, R134). -/
theorem exec_recordInstr (d : Dir) (ty a b : Byte) (payload : Bytes) (s : State) :
    exec (recordInstr d (s.peer d).hsState ty a b payload) s =
      stateOf (runRecord d (5 + payload.length) (dispatch d ty a b payload) s) := by
  have dispatched {rule : State → RuleResult × State} (h : rule s = dispatch d ty a b payload s) :
      stateOf (runRecord d (5 + payload.length) rule s) =
        stateOf (runRecord d (5 + payload.length) (dispatch d ty a b payload) s) :=
    congrArg stateOf (runRecord_congr h)
  unfold recordInstr
  split
  case h_1 ccs => exact dispatched (rule := changeCipherSpec d) (by simp only [dispatch, ccs])
  case h_2 alert =>
    split
    case isTrue reached => exact dispatched (rule := alertEnc d a b payload) (by simp only [dispatch, alert, if_pos reached])
    case isFalse before => exact dispatched (rule := alertPlain d payload) (by simp only [dispatch, alert, if_neg before])
  case h_3 handshake =>
    split
    case isTrue reached =>
      exact dispatched (rule := handshakeEnc d a b payload) (by simp only [dispatch, handshake, if_pos reached])
    case isFalse before =>
      exact dispatched (rule := handshakePlain d payload) (by simp only [dispatch, handshake, if_neg before])
  case h_4 appData => exact dispatched (rule := applicationData d a b payload) (by simp only [dispatch, appData])
  case h_5 ccs alert handshake appData => exact dispatched (rule := illegalRecord) (by simp only [dispatch])

/-- The record at the head of a stream is decoded whole (R70, R130). -/
theorem decode_of_fetchRecord {d : Dir} {s : State} {r : Bytes} (hs : HandshakeState) (fetched : fetchRecord d s = some r) :
    decode (.record d hs) r = .ok (recordInstr d hs (byteAt r 0) (byteAt r 1) (byteAt r 2) (r.drop 5), []) := by
  obtain ⟨header, _, _, len⟩ := fetchRecord_eq_some fetched
  have split := splitFrame_append (hdr := 5) (off := 3) (h := r.take 5) (body := r.drop 5) []
    (List.length_take_of_le header) (by rw [List.length_drop]; omega)
  have byte (k : Nat) (hk : k < 5) : byteAt (r.take 5) k = byteAt r k := by
    simp [byteAt, hk]
  rw [List.append_nil, List.take_append_drop] at split
  simp only [decode, decodeRecord, split, byte 0 (by omega), byte 1 (by omega), byte 2 (by omega)]

theorem isRecord_messageInstr (d : Dir) (ty : Byte) (body : Bytes) : isRecord (messageInstr d ty body) = false := by
  unfold messageInstr
  split <;> rfl

theorem isRecord_extensionInstr (ty : Nat) (data : Bytes) : isRecord (extensionInstr ty data) = false := by
  unfold extensionInstr
  split <;> rfl

theorem isRecord_sniInstr (ty : Byte) (name : Bytes) : isRecord (sniInstr ty name) = false := by
  unfold sniInstr
  split <;> rfl

theorem isRecord_of_decodeFeed {bs x : Bytes} {i : Instr} (h : decodeFeed bs = .ok (i, x)) : isRecord i = false := by
  unfold decodeFeed at h
  split at h
  · cases h
  · split at h
    · cases h
    · cases h
      rfl

/-- Only the record format holds records (R70, R93). -/
theorem isRecord_of_decode {c : Context} {bs x : Bytes} {i : Instr} (notRecord : ∀ d hs, c ≠ .record d hs)
    (h : decode c bs = .ok (i, x)) : isRecord i = false := by
  cases c with
  | command p =>
    simp only [decode, decodeCommand] at h
    split at h
    · cases h
    · split at h
      case h_2 => exact isRecord_of_decodeFeed h
      all_goals
        cases h
        rfl
  | record d hs => exact absurd rfl (notRecord d hs)
  | message d =>
    simp only [decode, decodeMessage] at h
    split at h
    · cases h
    · cases h
      exact isRecord_messageInstr _ _ _
  | extension =>
    simp only [decode, decodeExtension] at h
    split at h
    · cases h
    · cases h
      exact isRecord_extensionInstr _ _
  | sniEntry =>
    simp only [decode, decodeSniEntry] at h
    split at h
    · cases h
    · cases h
      exact isRecord_sniInstr _ _

/-! ### Every step keeps the invariant -/

/-- A message, an extension or a list entry run by itself keeps the invariant: it does not decrypt. -/
theorem AfterPart.inv {s t : State} (after : AfterPart s t) (h : s.Inv) : t.Inv := by
  obtain ⟨moveInv, ccsKeys⟩ := (inv_iff s).mp h
  have moveInv' : t.MoveInv := after.moves.moveInv False.elim moveInv
  obtain writes | ⟨u, d, e, _, rfl⟩ := after
  · exact (inv_iff t).mpr ⟨moveInv', fun e =>
      (ccsKeys e).keep (writes.reachedCcs e) writes.moves.advances (holdsCcs_of_stream_eq (writes.frame.stream e))⟩
  · exact moveInv'.inv_of_disabled (by rw [conn_disable])

/-- A new engine has the invariant (R111, R290). -/
theorem State.Inv.fresh (p : Params) (pending : List Request) : (State.fresh p pending).Inv where
  cursor_le d := by cases d <;> exact le_rfl
  random_len := ⟨rfl, rfl⟩
  premaster_len isSet := absurd isSet Bool.false_ne_true
  suite_set isSet := absurd isSet Bool.false_ne_true
  hello_seen := ⟨fun isSet => absurd isSet Bool.false_ne_true, fun isSet => absurd isSet Bool.false_ne_true⟩
  keys_set done := absurd done Bool.false_ne_true
  keys_unset _ := ⟨rfl, rfl, rfl⟩
  error_regs := ⟨rfl, rfl, rfl⟩
  ccs_keys d reached := by cases d <;> exact absurd reached Bool.false_ne_true
  closed_empty closed := absurd closed Bool.false_ne_true

/-- FINISH keeps the invariant: it leaves nothing to read (R118). -/
theorem State.Inv.finishOpen {s : State} (h : s.Inv) : (Machine.finishOpen s).Inv :=
  ((finishOpen_moves s).moveInv False.elim ((inv_iff s).mp h).1).inv_of_closed rfl

/-- Every instruction but a record keeps the invariant in every state. -/
theorem exec_keeps_inv (i : Instr) (notRecord : isRecord i = false) {s : State} (h : s.Inv) :
    ∃ t, exec i s = .next t ∧ t.Inv := by
  cases execForm i with
  | record d n rule record => exact absurd (notRecord.symm.trans record) Bool.false_ne_true
  | part exec_next =>
    obtain ⟨t, ran, after⟩ := exec_next s
    exact ⟨t, ran, after.inv h⟩
  | create p => exact ⟨_, rfl, .fresh p s.pending⟩
  | feed d bs =>
    exact execFeed_keeps d bs s (fun _ r kept => kept.with_response r)
      (fun d bs _ opened kept => kept.append d bs opened) (fun d _ kept => kept.stepDir d) h
  | status => exact ⟨_, rfl, h.with_response _⟩
  | finish =>
    change ∃ t, execFinish s = .next t ∧ t.Inv
    unfold execFinish
    split
    · exact ⟨_, rfl, h.with_response _⟩
    · exact ⟨_, rfl, h.finishOpen.with_response _⟩
  | cmdIllegal op => exact ⟨_, rfl, h.with_response _⟩

/-- What a step does with what it fetched. -/
def runFetched (f : Fetched) (s : State) : Host.Outcome State Fault Refusal :=
  match f with
  | .run i => exec i s
  | .stay t => .next t
  | .refuse x => .refused x

theorem step_of_cons {s : State} {r : Request} {rest : List Request} (h : s.pending = r :: rest) :
    step s = runFetched (fetch r { s with pending := rest }) { s with pending := rest } := by
  simp only [step, h]
  rfl

/-- A record request is one step of its direction (R130). -/
theorem runFetched_record (d : Dir) (s : State) : runFetched (fetch (.record d) s) s = stateOf (stepDir d s) := by
  cases running : s.conn.disabled with
  | true =>
    rw [stepDir_of_disabled running]
    simp only [fetch, fetchStep, running, if_true, runFetched, stateOf]
  | false =>
    cases fetched : fetchRecord d s with
    | none =>
      rw [stepDir_of_needMoreData running fetched]
      simp only [fetch, fetchStep, running, fetched, Bool.false_eq_true, if_false, runFetched, stateOf]
    | some r =>
      obtain ⟨header, _⟩ := fetchRecord_eq_some fetched
      have len : 5 + (r.drop 5).length = r.length := by rw [List.length_drop]; omega
      simp only [fetch, fetchStep, stepDir, running, fetched, Bool.false_eq_true, if_false, decode_of_fetchRecord _ fetched,
        runFetched, exec_recordInstr, len]

/-- A requested message is decoded, or there are no bytes, or it raises what its loop raises (R160, R162, R163). -/
theorem fetchMessage_cases (d : Dir) (bs : Bytes) (s : State) :
    (∃ i x, fetchMessage d bs s = .run i ∧ decode (.message d) bs = .ok (i, x)) ∨
    (∃ t, fetchMessage d bs s = .stay t ∧ AfterPart s t) := by
  unfold fetchMessage
  split
  · exact .inr ⟨s, rfl, .inl .refl⟩
  · split
    case h_1 i x decoded => exact .inl ⟨i, x, rfl, decoded⟩
    case h_2 => exact .inr ⟨_, rfl, raiseUndecodable_afterPart _ _ s⟩

/-- The same of an extension or a list entry (R171, R183). -/
theorem fetchHelloPart_cases (c : Context) (bs : Bytes) (s : State) :
    (∃ i x, fetchHelloPart c bs s = .run i ∧ decode c bs = .ok (i, x)) ∨
    (∃ t, fetchHelloPart c bs s = .stay t ∧ AfterPart s t) := by
  unfold fetchHelloPart
  split
  · exact .inr ⟨s, rfl, .inl .refl⟩
  · split
    case h_1 i x decoded => exact .inl ⟨i, x, rfl, decoded⟩
    case h_2 => exact .inr ⟨_, rfl, raiseUndecodable_afterPart _ _ s⟩

theorem fetchCommand_cases (p : Params) (bs : Bytes) :
    (∃ i x, fetchCommand p bs = .run i ∧ decode (.command p) bs = .ok (i, x)) ∨ ∃ x, fetchCommand p bs = .refuse x := by
  unfold fetchCommand
  split
  case h_1 i x decoded => exact .inl ⟨i, x, rfl, decoded⟩
  case h_2 => exact .inr ⟨_, rfl⟩

/-- What a request fetches: an instruction that is no record, a state with no instruction run, a refusal; or it is a record
request. -/
theorem fetch_cases (r : Request) (s : State) :
    (∃ i, fetch r s = .run i ∧ isRecord i = false) ∨ (∃ t, fetch r s = .stay t ∧ AfterPart s t) ∨
      (∃ x, fetch r s = .refuse x) ∨ ∃ d, r = .record d := by
  cases r with
  | command p bs =>
    obtain ⟨i, x, runs, decoded⟩ | refused := fetchCommand_cases p bs
    · exact .inl ⟨i, runs, isRecord_of_decode (fun _ _ => Context.noConfusion) decoded⟩
    · exact .inr (.inr (.inl refused))
  | record d => exact .inr (.inr (.inr ⟨d, rfl⟩))
  | message d bs =>
    obtain ⟨i, x, runs, decoded⟩ | stays := fetchMessage_cases d bs s
    · exact .inl ⟨i, runs, isRecord_of_decode (fun _ _ => Context.noConfusion) decoded⟩
    · exact .inr (.inl stays)
  | extension bs =>
    obtain ⟨i, x, runs, decoded⟩ | stays := fetchHelloPart_cases .extension bs s
    · exact .inl ⟨i, runs, isRecord_of_decode (fun _ _ => Context.noConfusion) decoded⟩
    · exact .inr (.inl stays)
  | sniEntry bs =>
    obtain ⟨i, x, runs, decoded⟩ | stays := fetchHelloPart_cases .sniEntry bs s
    · exact .inl ⟨i, runs, isRecord_of_decode (fun _ _ => Context.noConfusion) decoded⟩
    · exact .inr (.inl stays)

/-- What a request fetches keeps the invariant. -/
theorem runFetched_keeps_inv (r : Request) {s t : State} (h : s.Inv) (ran : runFetched (fetch r s) s = .next t) : t.Inv := by
  obtain ⟨i, runs, notRecord⟩ | ⟨u, stays, after⟩ | ⟨x, refused⟩ | ⟨d, rfl⟩ := fetch_cases r s
  · obtain ⟨u, ran', kept⟩ := exec_keeps_inv i notRecord h
    rw [runs] at ran
    cases ran.symm.trans ran'
    exact kept
  · rw [stays] at ran
    cases ran
    exact after.inv h
  · rw [refused] at ran
    cases ran
  · obtain ⟨progress, u, stepped, kept⟩ := h.stepDir d
    rw [runFetched_record, stepped] at ran
    cases ran
    exact kept

/-- Settles O21: a step without a request changes nothing, and what a request fetches keeps the invariant. -/
theorem stepKeepsTheInvariant : Obligations.StepKeepsTheInvariant := by
  intro s t h ran
  cases pending : s.pending with
  | nil =>
    simp only [step, pending] at ran
    cases ran
    exact h
  | cons r rest =>
    rw [step_of_cons pending] at ran
    exact runFetched_keeps_inv r (h.with_response_pending s.response rest) ran

end Sys2Proof.Machine

/-! ### The stream primitives: where Peek and Consume answer, and what Append of nothing writes (R50 to R53) -/
namespace Sys2Proof.Machine

theorem peek_of_le {s : State} {d : Dir} {n : Nat} (within : n ≤ s.avail d) :
    s.peek d n = some ((s.unconsumed d).take n) :=
  if_pos within

/-- NeedMoreData (R51). -/
theorem peek_of_lt {s : State} {d : Dir} {n : Nat} (past : s.avail d < n) : s.peek d n = none :=
  if_neg (Nat.not_le_of_lt past)

theorem consume_of_le {s : State} {d : Dir} {n : Nat} (within : n ≤ s.avail d) : s.consume d n = .next (s.advance d n) := by
  obtain ⟨_, advanced⟩ | ⟨past, _⟩ := consume_cases s d n
  · exact advanced
  · exact absurd within (Nat.not_le_of_lt past)

/-- The programming error of R52. -/
theorem consume_of_lt {s : State} {d : Dir} {n : Nat} (past : s.avail d < n) : s.consume d n = .fault .consumeBeyondAvail := by
  obtain ⟨within, _⟩ | ⟨_, faulted⟩ := consume_cases s d n
  · exact absurd within (Nat.not_le_of_lt past)
  · exact faulted

/-- Writing back the stream a direction has changes nothing. -/
theorem setStream_stream (s : State) (d : Dir) : s.setStream d (s.peer d).stream = s := by
  cases d <;> rfl

theorem append_nil (s : State) (d : Dir) : s.append d [] = s := by
  rw [State.append, List.append_nil]
  exact setStream_stream s d

/-- Settles O5: Peek and Consume on both sides of Avail, and an Append of nothing, which writes the stream back. -/
theorem streamPrimitives : Obligations.StreamPrimitives := fun s d =>
  ⟨rfl, fun _ => peek_of_le, fun _ => peek_of_lt, fun _ => consume_of_le, fun _ => consume_of_lt, fun _ => rfl, append_nil s d⟩

end Sys2Proof.Machine

/-! ### The formats: reading back what is written, and what was read (R70, R74, R77, R78, R92, R93) -/
namespace Sys2Proof

/-- A frame whose header ends with the length of its body is read back, with the bytes after it (R92). -/
theorem splitFrame_encBe {hdr off w : Nat} {pre body : Bytes} (rest : Bytes) (hpre : pre.length = off) (hhdr : hdr = off + w)
    (len : body.length < 256 ^ w) :
    splitFrame hdr off (pre ++ encBe w body.length ++ body ++ rest) = .ok (pre ++ encBe w body.length, body, rest) :=
  splitFrame_append rest (by rw [List.length_append, Laws.length_encBe, hpre, hhdr])
    (by rw [← hpre, List.drop_left, beNat_encBe len])

/-- The bytes of a frame that was read, its header taken apart (R92). -/
theorem exists_encBe_of_splitFrame {hdr off w : Nat} {bs h body rest : Bytes} (hhdr : hdr = off + w)
    (e : splitFrame hdr off bs = .ok (h, body, rest)) :
    ∃ pre, pre.length = off ∧ body.length < 256 ^ w ∧ h = pre ++ encBe w body.length ∧
      bs = pre ++ encBe w body.length ++ body ++ rest := by
  obtain ⟨rfl, headerLen, bodyLen⟩ := splitFrame_ok e
  have lengthLen : (h.drop off).length = w := by rw [List.length_drop]; omega
  have header : h.take off ++ encBe w body.length = h := by
    rw [bodyLen, encBe_beNat_of_length lengthLen, List.take_append_drop]
  refine ⟨h.take off, List.length_take_of_le (by omega), ?_, header.symm, by rw [header]⟩
  rw [bodyLen, ← lengthLen]
  exact beNat_lt _

/-! ### The opcode maps: what they name is admitted, well-formed, and has the bytes it is named by -/

/-- `i` is an instruction of the context `c` with the bytes `x`; it is well-formed where the parameters of a command are. -/
structure EncodedIn (c : Context) (x : Bytes) (i : Instr) : Prop where
  encode_eq : encode i = x
  admits : c.admits i = true
  wellFormed : (∀ p, c = .command p → p.wellFormed = true) → i.wellFormed = true

theorem eq_ofNat_of_toNat_eq {n : Nat} {t : BitVec n} {k : Nat} (h : t.toNat = k) : t = BitVec.ofNat n k := by
  rw [← h, BitVec.ofNat_toNat, BitVec.setWidth_eq]

/-- The content types that have a constructor of their own (R71). -/
def listedContentTypes : List Byte := [0x14, 0x15, 0x16, 0x17]

theorem recordInstr_of_unlisted {t : Byte} (h : listedContentTypes.contains t = false) (d : Dir) (hs : HandshakeState)
    (a b : Byte) (p : Bytes) : recordInstr d hs t a b p = .recordIllegal d t a b p := by
  unfold recordInstr
  split
  case h_5 => rfl
  all_goals
    rename_i ty
    rw [eq_ofNat_of_toNat_eq ty] at h
    cases h

theorem messageInstr_of_unlisted {t : Byte} (h : listedHandshakeTypes.contains t = false) (d : Dir) (body : Bytes) :
    messageInstr d t body = .hsUnknown d t body := by
  unfold messageInstr
  split
  case h_12 => rfl
  all_goals
    rename_i ty
    rw [eq_ofNat_of_toNat_eq ty] at h
    cases h

theorem extensionInstr_of_unlisted {t : BitVec 16} (serverName : t ≠ 0) (sessionTicket : t ≠ 35) (data : Bytes) :
    extensionInstr t.toNat data = .extOther t data := by
  unfold extensionInstr
  split
  case h_1 ty => exact absurd (eq_ofNat_of_toNat_eq ty) serverName
  case h_2 ty => exact absurd (eq_ofNat_of_toNat_eq ty) sessionTicket
  case h_3 => rw [BitVec.ofNat_toNat, BitVec.setWidth_eq]

theorem sniInstr_of_unlisted {t : Byte} (hostName : t ≠ 0) (name : Bytes) : sniInstr t name = .sniOther t name := by
  unfold sniInstr
  split
  case h_1 ty => exact absurd (eq_ofNat_of_toNat_eq ty) hostName
  case h_2 => rfl

/-- A handshake state chooses one row of a type that has a plain and a protected one (R134). -/
theorem recordInstr_encodedIn (d : Dir) (hs : HandshakeState) (t a b : Byte) {p : Bytes} (len : p.length < 65536) :
    EncodedIn (.record d hs) (encodeRecord t a b p) (recordInstr d hs t a b p) := by
  have fits : decide (p.length < 65536) = true := decide_eq_true len
  have same : (d == d) = true := beq_self_eq_true d
  by_cases listed : t ∈ listedContentTypes
  · simp only [listedContentTypes, List.mem_cons, List.not_mem_nil, or_false] at listed
    obtain rfl | rfl | rfl | rfl := listed
    case inl => exact ⟨rfl, same, fun _ => fits⟩
    case inr.inr.inr => exact ⟨rfl, same, fun _ => fits⟩
    all_goals
      cases reached : hs.reachedCcs <;> simp only [recordInstr, reached]
      case false => exact ⟨rfl, by simp [Context.admits, reached], fun _ => fits⟩
      case true => exact ⟨rfl, by simp [Context.admits, reached], fun _ => fits⟩
  · have unlisted : listedContentTypes.contains t = false := by simpa using listed
    rw [recordInstr_of_unlisted unlisted]
    exact ⟨rfl, same, fun _ => by rw [Instr.wellFormed, fits, ← listedContentTypes, unlisted]; rfl⟩

theorem messageInstr_encodedIn (d : Dir) (t : Byte) {body : Bytes} (len : body.length < 16777216) :
    EncodedIn (.message d) (encodeMessage t body) (messageInstr d t body) := by
  have fits : decide (body.length < 16777216) = true := decide_eq_true len
  have same : (d == d) = true := beq_self_eq_true d
  by_cases listed : t ∈ listedHandshakeTypes
  · simp only [listedHandshakeTypes, List.mem_cons, List.not_mem_nil, or_false] at listed
    obtain rfl | rfl | rfl | rfl | rfl | rfl | rfl | rfl | rfl | rfl | rfl := listed
    all_goals exact ⟨rfl, same, fun _ => fits⟩
  · have unlisted : listedHandshakeTypes.contains t = false := by simpa using listed
    rw [messageInstr_of_unlisted unlisted]
    exact ⟨rfl, same, fun _ => by rw [Instr.wellFormed, fits, unlisted]; rfl⟩

theorem extensionInstr_encodedIn (t : BitVec 16) {data : Bytes} (len : data.length < 65536) :
    EncodedIn .extension (encodeExtension t.toNat data) (extensionInstr t.toNat data) := by
  have fits : decide (data.length < 65536) = true := decide_eq_true len
  by_cases serverName : t = 0
  · subst serverName
    exact ⟨rfl, rfl, fun _ => fits⟩
  by_cases sessionTicket : t = 35
  · subst sessionTicket
    exact ⟨rfl, rfl, fun _ => fits⟩
  rw [extensionInstr_of_unlisted serverName sessionTicket]
  exact ⟨rfl, rfl, fun _ => by simpa [Instr.wellFormed, len] using And.intro serverName sessionTicket⟩

theorem sniInstr_encodedIn (t : Byte) {name : Bytes} (len : name.length < 65536) :
    EncodedIn .sniEntry (encodeSniEntry t name) (sniInstr t name) := by
  have fits : decide (name.length < 65536) = true := decide_eq_true len
  by_cases hostName : t = 0
  · subst hostName
    exact ⟨rfl, rfl, fun _ => fits⟩
  · rw [sniInstr_of_unlisted hostName]
    exact ⟨rfl, rfl, fun _ => by simpa [Instr.wellFormed, len] using hostName⟩

/-! ### Every instruction a context admits is named by its format's opcode map -/

theorem exists_recordInstr {d : Dir} {hs : HandshakeState} {i : Instr} (wf : i.wellFormed = true)
    (admits : (Context.record d hs).admits i = true) :
    ∃ t a b p, p.length < 65536 ∧ i = recordInstr d hs t a b p := by
  cases i with
  | ccs e a b p =>
    obtain rfl : e = d := by simpa [Context.admits] using admits
    exact ⟨0x14, a, b, p, of_decide_eq_true wf, rfl⟩
  | alertPlain e a b p =>
    obtain ⟨rfl, before⟩ : e = d ∧ hs.reachedCcs = false := by simpa [Context.admits] using admits
    exact ⟨0x15, a, b, p, of_decide_eq_true wf, by simp [recordInstr, before]⟩
  | alertProtected e a b p =>
    obtain ⟨rfl, reached⟩ : e = d ∧ hs.reachedCcs = true := by simpa [Context.admits] using admits
    exact ⟨0x15, a, b, p, of_decide_eq_true wf, by simp [recordInstr, reached]⟩
  | handshakePlain e a b p =>
    obtain ⟨rfl, before⟩ : e = d ∧ hs.reachedCcs = false := by simpa [Context.admits] using admits
    exact ⟨0x16, a, b, p, of_decide_eq_true wf, by simp [recordInstr, before]⟩
  | handshakeProtected e a b p =>
    obtain ⟨rfl, reached⟩ : e = d ∧ hs.reachedCcs = true := by simpa [Context.admits] using admits
    exact ⟨0x16, a, b, p, of_decide_eq_true wf, by simp [recordInstr, reached]⟩
  | appData e a b p =>
    obtain rfl : e = d := by simpa [Context.admits] using admits
    exact ⟨0x17, a, b, p, of_decide_eq_true wf, rfl⟩
  | recordIllegal e t a b p =>
    obtain rfl : e = d := by simpa [Context.admits] using admits
    obtain ⟨unlisted, len⟩ := Bool.and_eq_true_iff.mp wf
    exact ⟨t, a, b, p, of_decide_eq_true len, (recordInstr_of_unlisted ((Bool.not_eq_true' _).mp unlisted) ..).symm⟩
  | _ => cases admits

theorem exists_messageInstr {d : Dir} {i : Instr} (wf : i.wellFormed = true) (admits : (Context.message d).admits i = true) :
    ∃ t body, body.length < 16777216 ∧ i = messageInstr d t body := by
  cases i with
  | hsUnknown e t x =>
    obtain rfl : e = d := by simpa [Context.admits] using admits
    obtain ⟨unlisted, len⟩ := Bool.and_eq_true_iff.mp wf
    exact ⟨t, x, of_decide_eq_true len, (messageInstr_of_unlisted ((Bool.not_eq_true' _).mp unlisted) ..).symm⟩
  | hsHelloRequest e x => obtain rfl := eq_of_beq admits; exact ⟨0, x, of_decide_eq_true wf, rfl⟩
  | hsClientHello e x => obtain rfl := eq_of_beq admits; exact ⟨1, x, of_decide_eq_true wf, rfl⟩
  | hsServerHello e x => obtain rfl := eq_of_beq admits; exact ⟨2, x, of_decide_eq_true wf, rfl⟩
  | hsNewSessionTicket e x => obtain rfl := eq_of_beq admits; exact ⟨4, x, of_decide_eq_true wf, rfl⟩
  | hsCertificate e x => obtain rfl := eq_of_beq admits; exact ⟨11, x, of_decide_eq_true wf, rfl⟩
  | hsServerKeyExchange e x => obtain rfl := eq_of_beq admits; exact ⟨12, x, of_decide_eq_true wf, rfl⟩
  | hsCertificateRequest e x => obtain rfl := eq_of_beq admits; exact ⟨13, x, of_decide_eq_true wf, rfl⟩
  | hsServerHelloDone e x => obtain rfl := eq_of_beq admits; exact ⟨14, x, of_decide_eq_true wf, rfl⟩
  | hsCertificateVerify e x => obtain rfl := eq_of_beq admits; exact ⟨15, x, of_decide_eq_true wf, rfl⟩
  | hsClientKeyExchange e x => obtain rfl := eq_of_beq admits; exact ⟨16, x, of_decide_eq_true wf, rfl⟩
  | hsFinished e x => obtain rfl := eq_of_beq admits; exact ⟨20, x, of_decide_eq_true wf, rfl⟩
  | _ => cases admits

theorem exists_extensionInstr {i : Instr} (wf : i.wellFormed = true) (admits : Context.extension.admits i = true) :
    ∃ (t : BitVec 16) (data : Bytes), data.length < 65536 ∧ i = extensionInstr t.toNat data := by
  cases i with
  | extServerName x => exact ⟨0, x, of_decide_eq_true wf, rfl⟩
  | extSessionTicket x => exact ⟨35, x, of_decide_eq_true wf, rfl⟩
  | extOther t x =>
    obtain ⟨⟨serverName, sessionTicket⟩, len⟩ : (t ≠ 0 ∧ t ≠ 35) ∧ x.length < 65536 := by
      simpa [Instr.wellFormed] using wf
    exact ⟨t, x, len, (extensionInstr_of_unlisted serverName sessionTicket x).symm⟩
  | _ => cases admits

theorem exists_sniInstr {i : Instr} (wf : i.wellFormed = true) (admits : Context.sniEntry.admits i = true) :
    ∃ t name, name.length < 65536 ∧ i = sniInstr t name := by
  cases i with
  | sniHostName x => exact ⟨0, x, of_decide_eq_true wf, rfl⟩
  | sniOther t x =>
    obtain ⟨hostName, len⟩ : t ≠ 0 ∧ x.length < 65536 := by simpa [Instr.wellFormed] using wf
    exact ⟨t, x, len, (sniInstr_of_unlisted hostName x).symm⟩
  | _ => cases admits

/-! ### Decoding what was written -/

theorem decodeRecord_encodeRecord (d : Dir) (hs : HandshakeState) (t a b : Byte) {p : Bytes} (rest : Bytes)
    (len : p.length < 65536) :
    decodeRecord d hs (encodeRecord t a b p ++ rest) = .ok (recordInstr d hs t a b p, rest) := by
  have frame := splitFrame_encBe (hdr := 5) (off := 3) (w := 2) (pre := [t, a, b]) rest rfl rfl len
  rw [decodeRecord, show encodeRecord t a b p ++ rest = [t, a, b] ++ encBe 2 p.length ++ p ++ rest from rfl, frame]
  rfl

theorem decodeMessage_encodeMessage (d : Dir) (t : Byte) {body : Bytes} (rest : Bytes) (len : body.length < 16777216) :
    decodeMessage d (encodeMessage t body ++ rest) = .ok (messageInstr d t body, rest) := by
  have frame := splitFrame_encBe (hdr := 4) (off := 1) (w := 3) (pre := [t]) rest rfl rfl len
  rw [decodeMessage, show encodeMessage t body ++ rest = [t] ++ encBe 3 body.length ++ body ++ rest from rfl, frame]
  rfl

theorem decodeExtension_encodeExtension (t : BitVec 16) {data : Bytes} (rest : Bytes) (len : data.length < 65536) :
    decodeExtension (encodeExtension t.toNat data ++ rest) = .ok (extensionInstr t.toNat data, rest) := by
  have frame := splitFrame_encBe (hdr := 4) (w := 2) (pre := encBe 2 t.toNat) rest (Laws.length_encBe 2 _) rfl len
  have type : beNat (encBe 2 t.toNat) = t.toNat := beNat_encBe t.isLt
  rw [decodeExtension, encodeExtension, ← List.append_assoc (encBe 2 t.toNat), frame]
  simp only [List.take_left' (Laws.length_encBe 2 _), type]

theorem decodeSniEntry_encodeSniEntry (t : Byte) {name : Bytes} (rest : Bytes) (len : name.length < 65536) :
    decodeSniEntry (encodeSniEntry t name ++ rest) = .ok (sniInstr t name, rest) := by
  have frame := splitFrame_encBe (hdr := 3) (off := 1) (w := 2) (pre := [t]) rest rfl rfl len
  rw [decodeSniEntry, show encodeSniEntry t name ++ rest = [t] ++ encBe 2 name.length ++ name ++ rest from rfl, frame]
  rfl

theorem decodeFeed_append (d : Byte) {data : Bytes} (rest : Bytes) (len : data.length < 4294967296) :
    decodeFeed (d :: (encBe 4 data.length ++ data ++ rest)) = .ok (.feed d data, rest) := by
  have frame := splitFrame_encBe (hdr := 4) (off := 0) (w := 4) (pre := []) rest rfl rfl len
  rw [List.nil_append] at frame
  rw [decodeFeed, frame]

theorem decodeCommand_of_unlisted {op : Byte} (h : [1, 2, 3, 4].contains op = false) (p : Params) (rest : Bytes) :
    decodeCommand p (op :: rest) = .ok (.cmdIllegal op, rest) := by
  unfold decodeCommand
  simp only
  split
  case h_5 => rfl
  all_goals
    rename_i code
    rw [eq_ofNat_of_toNat_eq code] at h
    cases h

theorem decodeCommand_encode {p : Params} {i : Instr} (rest : Bytes) (wf : i.wellFormed = true)
    (admits : (Context.command p).admits i = true) : decodeCommand p (encode i ++ rest) = .ok (i, rest) := by
  cases i with
  | create q => obtain rfl := eq_of_beq admits; rfl
  | feed d data => exact decodeFeed_append d rest (of_decide_eq_true wf)
  | status => rfl
  | finish => rfl
  | cmdIllegal op => exact decodeCommand_of_unlisted ((Bool.not_eq_true' _).mp wf) p rest
  | _ => cases admits

/-- Settles O1: an admitted instruction is named by its format's opcode map, whose frame is read back. -/
theorem decodeReadsBackEveryEncoding : Obligations.DecodeReadsBackEveryEncoding := by
  intro c i rest wf admits
  cases c with
  | command p => exact decodeCommand_encode rest wf admits
  | record d hs =>
    obtain ⟨t, a, b, p, len, rfl⟩ := exists_recordInstr wf admits
    rw [(recordInstr_encodedIn d hs t a b len).encode_eq]
    exact decodeRecord_encodeRecord d hs t a b rest len
  | message d =>
    obtain ⟨t, body, len, rfl⟩ := exists_messageInstr wf admits
    rw [(messageInstr_encodedIn d t len).encode_eq]
    exact decodeMessage_encodeMessage d t rest len
  | extension =>
    obtain ⟨t, data, len, rfl⟩ := exists_extensionInstr wf admits
    rw [(extensionInstr_encodedIn t len).encode_eq]
    exact decodeExtension_encodeExtension t rest len
  | sniEntry =>
    obtain ⟨t, name, len, rfl⟩ := exists_sniInstr wf admits
    rw [(sniInstr_encodedIn t len).encode_eq]
    exact decodeSniEntry_encodeSniEntry t rest len

/-! ### What was read is an encoding -/

theorem encodedIn_of_decodeRecord {d : Dir} {hs : HandshakeState} {bs rest : Bytes} {i : Instr}
    (h : decodeRecord d hs bs = .ok (i, rest)) : ∃ x, bs = x ++ rest ∧ EncodedIn (.record d hs) x i := by
  unfold decodeRecord at h
  split at h
  case h_1 => cases h
  case h_2 hdr p rest' read =>
    cases h
    obtain ⟨pre, preLen, len, rfl, rfl⟩ := exists_encBe_of_splitFrame (w := 2) rfl read
    obtain ⟨t, a, b, rfl⟩ := List.length_eq_three.mp preLen
    exact ⟨encodeRecord t a b p, rfl, recordInstr_encodedIn d hs t a b len⟩

theorem encodedIn_of_decodeMessage {d : Dir} {bs rest : Bytes} {i : Instr} (h : decodeMessage d bs = .ok (i, rest)) :
    ∃ x, bs = x ++ rest ∧ EncodedIn (.message d) x i := by
  unfold decodeMessage at h
  split at h
  case h_1 => cases h
  case h_2 hdr body rest' read =>
    cases h
    obtain ⟨pre, preLen, len, rfl, rfl⟩ := exists_encBe_of_splitFrame (w := 3) rfl read
    obtain ⟨t, rfl⟩ := List.length_eq_one_iff.mp preLen
    exact ⟨encodeMessage t body, rfl, messageInstr_encodedIn d t len⟩

theorem encodedIn_of_decodeExtension {bs rest : Bytes} {i : Instr} (h : decodeExtension bs = .ok (i, rest)) :
    ∃ x, bs = x ++ rest ∧ EncodedIn .extension x i := by
  unfold decodeExtension at h
  split at h
  case h_1 => cases h
  case h_2 hdr data rest' read =>
    cases h
    obtain ⟨pre, preLen, len, rfl, rfl⟩ := exists_encBe_of_splitFrame (w := 2) rfl read
    have type : (BitVec.ofNat 16 (beNat pre)).toNat = beNat pre :=
      Nat.mod_eq_of_lt (by have := beNat_lt pre; rwa [preLen] at this)
    have encoded := extensionInstr_encodedIn (BitVec.ofNat 16 (beNat pre)) len
    rw [type, encodeExtension, encBe_beNat_of_length preLen] at encoded
    rw [List.take_left' preLen]
    exact ⟨_, by rw [List.append_assoc pre], encoded⟩

theorem encodedIn_of_decodeSniEntry {bs rest : Bytes} {i : Instr} (h : decodeSniEntry bs = .ok (i, rest)) :
    ∃ x, bs = x ++ rest ∧ EncodedIn .sniEntry x i := by
  unfold decodeSniEntry at h
  split at h
  case h_1 => cases h
  case h_2 hdr name rest' read =>
    cases h
    obtain ⟨pre, preLen, len, rfl, rfl⟩ := exists_encBe_of_splitFrame (w := 2) rfl read
    obtain ⟨t, rfl⟩ := List.length_eq_one_iff.mp preLen
    exact ⟨encodeSniEntry t name, rfl, sniInstr_encodedIn t len⟩

theorem encodedIn_of_decodeFeed {bs rest : Bytes} {i : Instr} (p : Params) (h : decodeFeed bs = .ok (i, rest)) :
    ∃ x, 0x02 :: bs = x ++ rest ∧ EncodedIn (.command p) x i := by
  unfold decodeFeed at h
  split at h
  case h_1 => cases h
  case h_2 d operands =>
    split at h
    case h_1 => cases h
    case h_2 hdr data rest' read =>
      cases h
      obtain ⟨pre, preLen, len, rfl, rfl⟩ := exists_encBe_of_splitFrame (w := 4) rfl read
      obtain rfl := List.length_eq_zero_iff.mp preLen
      exact ⟨encode (.feed d data), rfl, rfl, rfl, fun _ => decide_eq_true len⟩

theorem encodedIn_of_decodeCommand {p : Params} {bs rest : Bytes} {i : Instr} (h : decodeCommand p bs = .ok (i, rest)) :
    ∃ x, bs = x ++ rest ∧ EncodedIn (.command p) x i := by
  unfold decodeCommand at h
  split at h
  case h_1 => cases h
  case h_2 op operands =>
    split at h
    case h_1 code =>
      cases h
      rw [eq_ofNat_of_toNat_eq code]
      exact ⟨[0x01], rfl, rfl, beq_self_eq_true p, fun params => params p rfl⟩
    case h_2 code =>
      rw [eq_ofNat_of_toNat_eq code]
      exact encodedIn_of_decodeFeed p h
    case h_3 code =>
      cases h
      rw [eq_ofNat_of_toNat_eq code]
      exact ⟨[0x03], rfl, rfl, rfl, fun _ => rfl⟩
    case h_4 code =>
      cases h
      rw [eq_ofNat_of_toNat_eq code]
      exact ⟨[0x04], rfl, rfl, rfl, fun _ => rfl⟩
    case h_5 create feed status finish =>
      cases h
      have unlisted : [1, 2, 3, 4].contains op = false := by
        simpa [← BitVec.toNat_inj] using ⟨create, feed, status, finish⟩
      exact ⟨[op], rfl, rfl, rfl, fun _ => by rw [Instr.wellFormed, unlisted]; rfl⟩

/-- Settles O2: every format reads a frame, whose header tells the row of its opcode map. -/
theorem decodedBytesAreTheEncoding : Obligations.DecodedBytesAreTheEncoding := by
  intro c bs rest i decoded
  have read : ∃ x, bs = x ++ rest ∧ EncodedIn c x i := by
    cases c with
    | command p => exact encodedIn_of_decodeCommand decoded
    | record d hs => exact encodedIn_of_decodeRecord decoded
    | message d => exact encodedIn_of_decodeMessage decoded
    | extension => exact encodedIn_of_decodeExtension decoded
    | sniEntry => exact encodedIn_of_decodeSniEntry decoded
  obtain ⟨x, bytes, encoded⟩ := read
  exact ⟨by rw [encoded.encode_eq, bytes], encoded.admits, encoded.wellFormed⟩

/-- Settles O3: each word is the encoding of its instruction, and the Certificate's is followed by one byte. -/
theorem wordsOfTheSpecDecode : Obligations.WordsOfTheSpecDecode :=
  ⟨fun h => decodeReadsBackEveryEncoding (.record .serverToClient h) (.ccs .serverToClient 0x03 0x01 [0x01]) [] rfl rfl,
    decodeReadsBackEveryEncoding (.record .serverToClient .sawHello) (.alertPlain .serverToClient 0x03 0x01 [0x02, 0x28]) []
      rfl rfl,
    decodeReadsBackEveryEncoding (.record .serverToClient .finished) (.alertProtected .serverToClient 0x03 0x01 [0x02, 0x28]) []
      rfl rfl,
    fun h => decodeReadsBackEveryEncoding (.record .clientToServer h) (.recordIllegal .clientToServer 0x80 0x03 0x01 []) [] rfl rfl,
    decodeReadsBackEveryEncoding (.message .serverToClient) (.hsCertificate .serverToClient [0x00, 0x00, 0x00]) [0x0e] rfl rfl,
    decodeReadsBackEveryEncoding .extension (.extSessionTicket [0xaa, 0xbb]) [] rfl rfl,
    decodeReadsBackEveryEncoding .sniEntry (.sniHostName [0x61, 0x62]) [] rfl rfl,
    fun p => decodeReadsBackEveryEncoding (.command p) (.feed 0x00 [0x16, 0x03, 0x01]) [] rfl rfl⟩

end Sys2Proof

/-! ### Reading an event back from its bytes (R95) -/
namespace Sys2Proof.Machine

/-- The direction of a direction byte (R95). -/
def readDir (b : Byte) : Dir :=
  if b = 0x00 then .clientToServer else .serverToClient

theorem readDir_dirByte (d : Dir) : readDir (dirByte d) = d := by cases d <;> rfl

theorem dirByte_eq_ite (d : Dir) : dirByte d = if d = .clientToServer then 0x00 else 0x01 := by cases d <;> rfl

theorem prefixed_of_lt {bs : Bytes} (len : bs.length < 4294967296) : prefixed bs = encBe 4 bs.length ++ bs := by
  rw [prefixed, lengthPrefix, if_pos len]

theorem length_prefixed (bs : Bytes) : (prefixed bs).length = 4 + bs.length := by
  unfold prefixed lengthPrefix
  split <;> simp [Laws.length_encBe]

theorem length_lt_of_prefixed {header bs : Bytes} {n : Nat} (short : (header ++ prefixed bs).length < n) : bs.length < n := by
  rw [List.length_append, length_prefixed] at short
  omega

/-- A byte string after its 4-byte length, made into an event, and the bytes after it (R95). -/
def readPrefixed (event : Bytes → Event) (bs : Bytes) : Option (Event × Bytes) :=
  match splitFrame 4 0 bs with
  | .ok (_, body, rest) => some (event body, rest)
  | .error _ => none

theorem readPrefixed_prefixed (event : Bytes → Event) {body : Bytes} (rest : Bytes) (len : body.length < 4294967296) :
    readPrefixed event (prefixed body ++ rest) = some (event body, rest) := by
  have frame := splitFrame_encBe (hdr := 4) (off := 0) (w := 4) (pre := []) rest rfl rfl len
  rw [List.nil_append] at frame
  rw [readPrefixed, prefixed_of_lt len, frame]

/-- The event at the head of a byte string, by its tag, and the bytes after it (R95). -/
def readEvent (bs : Bytes) : Option (Event × Bytes) :=
  match bs with
  | tag :: dir :: rest =>
    match tag.toNat, rest with
    | 1, ty :: rest => readPrefixed (.hsMsg (readDir dir) ty) rest
    | 2, rest => some (.ccs (readDir dir), rest)
    | 3, rest => some (.keysDerived (readDir dir), rest)
    | 4, rest => readPrefixed (.plainAlert (readDir dir)) rest
    | 5, ty :: rest => readPrefixed (.decrypted (readDir dir) ty) rest
    | 6, rest => readPrefixed (.raw (readDir dir)) rest
    | 7, kind :: detail :: rest => some (.error (readDir dir) kind detail, rest)
    | _, _ => none
  | _ => none

/-- An event shorter than `2^32` bytes is read back, whatever follows it (R95). -/
theorem readEvent_bytes (e : Event) (rest : Bytes) (short : e.bytes.length < 4294967296) :
    readEvent (e.bytes ++ rest) = some (e, rest) := by
  cases e with
  | hsMsg d ty body =>
    exact (readPrefixed_prefixed _ rest (length_lt_of_prefixed short)).trans (by rw [readDir_dirByte])
  | plainAlert d body =>
    exact (readPrefixed_prefixed _ rest (length_lt_of_prefixed short)).trans (by rw [readDir_dirByte])
  | decrypted d ty body =>
    exact (readPrefixed_prefixed _ rest (length_lt_of_prefixed short)).trans (by rw [readDir_dirByte])
  | raw d body =>
    exact (readPrefixed_prefixed _ rest (length_lt_of_prefixed short)).trans (by rw [readDir_dirByte])
  | ccs d => exact congrArg (fun d => some (Event.ccs d, rest)) (readDir_dirByte d)
  | keysDerived d => exact congrArg (fun d => some (Event.keysDerived d, rest)) (readDir_dirByte d)
  | error d kind detail => exact congrArg (fun d => some (Event.error d kind detail, rest)) (readDir_dirByte d)

/-- Settles O4: the bytes are those of R95, and reading them back gives the event and what follows it. -/
theorem eventBytesTellTheEvent : Obligations.EventBytesTellTheEvent := by
  refine ⟨fun d x bs len => ?withBody, fun d kind detail => ?fixed, fun e e' r r' short same => ?unique⟩
  case withBody =>
    simp only [Event.bytes, prefixed_of_lt len, dirByte_eq_ite, List.append_assoc, and_self]
  case fixed => simp only [Event.bytes, dirByte_eq_ite, and_self]
  case unique =>
    have read := readEvent_bytes e r (short e (.inl rfl))
    rw [same, readEvent_bytes e' r' (short e' (.inr rfl))] at read
    obtain ⟨rfl, rfl⟩ := Prod.mk.inj (Option.some.inj read)
    exact ⟨rfl, rfl⟩

/-! ### The record MAC: its construction and its length (R239, R242, R243) -/

/-- TLS 1.0, TLS 1.1 or mode `Hmac` (R239, R242). -/
theorem recordMac_eq_hmac {cls : VersionClass} {mode : MacMode} {p : CipherSuiteParams} {alg : MacAlg}
    (hasMac : p.macAlg = some alg) (h : cls = .tls10 ∨ cls = .tls11 ∨ mode = .hmac) (key : Bytes) (seq : BitVec 64) (ty vmaj vmin : Byte) (frag : Bytes) :
    recordMac cls mode p key seq ty vmaj vmin frag = hmac alg key (macInput seq ty vmaj vmin frag) := by
  have tls : cls.isTls ∨ mode = .hmac := by simpa [VersionClass.isTls, or_assoc] using h
  simp only [recordMac, hasMac, if_pos tls]

/-- Every other class in mode `Ssl3Mac` (R239, R243). -/
theorem recordMac_eq_ssl3Mac {cls : VersionClass} {mode : MacMode} {p : CipherSuiteParams} {alg : MacAlg}
    (hasMac : p.macAlg = some alg) (h : ¬ (cls = .tls10 ∨ cls = .tls11 ∨ mode = .hmac)) (key : Bytes) (seq : BitVec 64)
    (ty vmaj vmin : Byte) (frag : Bytes) :
    recordMac cls mode p key seq ty vmaj vmin frag = ssl3Mac alg key seq ty frag := by
  have ssl3 : ¬ (cls.isTls ∨ mode = .hmac) := by simpa [VersionClass.isTls, or_assoc] using h
  simp only [recordMac, hasMac, if_neg ssl3]

theorem length_recordMac {p : CipherSuiteParams} {alg : MacAlg} (hasMac : p.macAlg = some alg) (cls : VersionClass)
    (mode : MacMode) (key : Bytes) (seq : BitVec 64) (ty vmaj vmin : Byte) (frag : Bytes) :
    (recordMac cls mode p key seq ty vmaj vmin frag).length = digestLen alg := by
  by_cases h : cls = .tls10 ∨ cls = .tls11 ∨ mode = .hmac
  · rw [recordMac_eq_hmac hasMac h, length_hmac]
  · rw [recordMac_eq_ssl3Mac hasMac h, ssl3Mac, length_hash]

/-- Settles O46: the inputs of the two constructions are the byte strings of R242 and R243. -/
theorem recordMacConstructions : Obligations.RecordMacConstructions := by
  intro cls mode p alg key frag seq ty vmaj vmin hasMac
  refine ⟨fun h => recordMac_eq_hmac hasMac h key seq ty vmaj vmin frag, fun notTls10 notTls11 ssl3 => ?_⟩
  rw [recordMac_eq_ssl3Mac hasMac (by simp [notTls10, notTls11, ssl3])]
  cases alg <;> rfl

/-! ### Decryption under the NULL cipher (R87, R230) -/

/-- Writing back what a direction has changes nothing. -/
theorem setKeys_keys (s : State) (d : Dir) : s.setKeys d (s.peer d).keys = s := by cases d <;> rfl

theorem setHs_hsState (s : State) (d : Dir) : s.setHs d (s.peer d).hsState = s := by cases d <;> rfl

theorem setHs_emit (s : State) (d : Dir) (e : Event) (h : HandshakeState) : (s.emit e).setHs d h = (s.setHs d h).emit e := by
  cases d <;> rfl

/-- The NULL cipher leaves the key bank and the payload as they are (R87, R233). -/
theorem decryptBody_null {p : CipherSuiteParams} {k : KeyBank} {st : StreamState} (stream : p.family = .stream)
    (state : k.streamState = some st) (null : st.cipher = .null) (cls : VersionClass) (mode : PaddingCheck) (payload : Bytes) :
    decryptBody cls mode p k payload = (k, .ok payload) := by
  have bank : { k with streamState := some st } = k := by rw [← state]
  simp only [decryptBody, stream, state, Option.getD_some, streamApply, null, bank]

theorem fragmentOf_append {p : CipherSuiteParams} {mac : Bytes} (frag : Bytes) (len : mac.length = p.macLen) :
    fragmentOf p (frag ++ mac) = frag := by
  rw [fragmentOf, List.length_append, len, Nat.add_sub_cancel, List.take_left]

/-- What decryption leaves of a record with this fragment, before the record is consumed (R230 steps 4 and 5). -/
def State.accepted (s : State) (d : Dir) (ty : Byte) (frag : Bytes) : State :=
  State.emit (s.setKeys d { (s.peer d).keys with seq := (s.peer d).keys.seq + 1 }) (.decrypted d ty frag)

/-- A body that ends with the MAC of what stands before it is accepted (R230, R240, R241). -/
theorem acceptBody_recordMac {cls : VersionClass} {p : CipherSuiteParams} {alg : MacAlg} {d : Dir} {ty a b : Byte}
    {frag mac : Bytes} {s : State} (hasMac : p.macAlg = some alg) (macLen : p.macLen = digestLen alg)
    (below : (s.peer d).keys.seq ≠ BitVec.allOnes 64)
    (isMac : mac = recordMac cls s.params.macMode p (s.peer d).keys.macKey (s.peer d).keys.seq ty a b frag) :
    acceptBody cls p d ty a b (frag ++ mac) s = (.done, s.accepted d ty frag) := by
  have len : mac.length = p.macLen := by rw [isMac, length_recordMac hasMac, macLen]
  have checked : checkMac cls s.params.macMode p (s.peer d).keys ty a b (frag ++ mac) = none := by
    rw [checkMac, fragmentOf_append frag len, ← isMac, List.length_append, len, Nat.add_sub_cancel, List.drop_left,
      if_neg (by omega), if_pos rfl]
  simp only [acceptBody, checked, if_neg below, fragmentOf_append frag len, State.accepted]

theorem hsState_accepted (s : State) (d : Dir) (ty : Byte) (frag : Bytes) :
    ((s.accepted d ty frag).peer d).hsState = (s.peer d).hsState := by
  simp [State.accepted]

theorem avail_accepted (s : State) (d : Dir) (ty : Byte) (frag : Bytes) : (s.accepted d ty frag).avail d = s.avail d := by
  simp [State.accepted]

theorem delivered_of_finished {s : State} {d : Dir} {ty : Byte} (first : ty = 22 ∧ (s.peer d).hsState = .changeCipherSpecSeen)
    (frag : Bytes) (n : Nat) : s.delivered d ty frag n = ((s.accepted d ty frag).setHs d .finished).advance d n := by
  rw [State.delivered, if_pos first, State.accepted, setHs_emit]

theorem delivered_of_not_finished {s : State} {d : Dir} {ty : Byte}
    (later : ¬ (ty = 22 ∧ (s.peer d).hsState = .changeCipherSpecSeen)) (frag : Bytes) (n : Nat) :
    s.delivered d ty frag n = (s.accepted d ty frag).advance d n := by
  rw [State.delivered, if_neg later, State.accepted, ← hsState_setKeys s d d, setHs_hsState]

/-- A record of each of the three protected forms that is decrypted to a fragment is delivered and consumed (R136, R148, R150,
R151). -/
theorem exec_of_accepted {s : State} {i : Instr} {d : Dir} {ty a b : Byte} {frag payload : Bytes}
    (h : s.decrypts i d ty a b payload) (decrypted : decrypt d ty a b payload s = (.done, s.accepted d ty frag)) :
    exec i s = .next (s.delivered d ty frag (5 + payload.length)) := by
  obtain ⟨⟨running, buffered⟩, ⟨rfl, rfl, ready, done⟩ | ⟨rfl, rfl⟩ | ⟨rfl, rfl⟩⟩ := h
  case inl =>
    have rule : applicationData d a b payload s = (.done, s.accepted d 23 frag) := by
      rw [applicationData, if_pos ready, if_pos done, decrypted]
    rw [delivered_of_not_finished fun first => absurd first.1 (by decide)]
    exact runRecord_done running buffered rule (avail_accepted s d 23 frag)
  case inr.inl =>
    rw [delivered_of_not_finished fun first => absurd first.1 (by decide)]
    exact runRecord_done (rule := alertEnc d a b payload) running buffered decrypted (avail_accepted s d 21 frag)
  case inr.inr =>
    by_cases first : (s.peer d).hsState = .changeCipherSpecSeen
    · have rule : handshakeEnc d a b payload s = (.done, (s.accepted d 22 frag).setHs d .finished) := by
        simp only [handshakeEnc, decrypted, hsState_accepted, if_pos first]
      rw [delivered_of_finished ⟨rfl, first⟩]
      exact runRecord_done running buffered rule ((avail_setHs ..).trans (avail_accepted s d 22 frag))
    · have rule : handshakeEnc d a b payload s = (.done, s.accepted d 22 frag) := by
        simp only [handshakeEnc, decrypted, hsState_accepted, if_neg first]
      rw [delivered_of_not_finished fun both => first both.2]
      exact runRecord_done running buffered rule (avail_accepted s d 22 frag)

/-- Settles O43: the NULL cipher gives the payload back, which ends with the MAC of the fragment. -/
theorem nullCipherRecordRoundTrip : Obligations.NullCipherRecordRoundTrip := by
  intro s i d ty a b frag payload st alg decrypts stream state null hasMac macLen below isPayload
  have below : (s.peer d).keys.seq ≠ BitVec.allOnes 64 := by
    intro last
    rw [last] at below
    exact absurd below (by decide)
  refine exec_of_accepted decrypts ?_
  rw [decrypt, decryptBody_null stream state null]
  simp only [setKeys_keys, isPayload]
  exact acceptBody_recordMac hasMac (by rw [macLen]; cases alg <;> rfl) below rfl

/-! ### The first ChangeCipherSpec of a ready engine (R84, R145, R203, R208) -/

theorem versionClass_of_unknown {v : BitVec 16} (ssl3 : v ≠ 0x0300) (tls10 : v ≠ 0x0301) (tls11 : v ≠ 0x0302)
    (tls12 : v ≠ 0x0303) : versionClass v = .other := by
  rw [versionClass, if_neg ssl3, if_neg tls10, if_neg tls11, if_neg tls12]

/-- The three versions with a key schedule derive keys (R203). -/
theorem keySchedule_of_version {s : State} (h : s.conn.version = 0x0300 ∨ s.conn.version = 0x0301 ∨ s.conn.version = 0x0302)
    (d : Dir) : keySchedule d s = (.done, deriveKeys (versionClass s.conn.version) d s) := by
  obtain version | version | version := h <;> simp only [keySchedule, version] <;> rfl

/-- The key block holds an IV for the block suites of the versions that chain it (R211). -/
theorem keyBlockIvLen_of_version {v : BitVec 16} (h : v = 0x0300 ∨ v = 0x0301 ∨ v = 0x0302) (p : CipherSuiteParams) :
    keyBlockIvLen (versionClass v) p = if p.family = .block ∧ v ≠ 0x0302 then p.ivLen else 0 := by
  obtain rfl | rfl | rfl := h
  · exact if_congr (and_congr_right' (by decide)) rfl rfl
  · exact if_congr (and_congr_right' (by decide)) rfl rfl
  · exact if_congr (and_congr_right' (by decide)) rfl rfl

/-- The state a ready engine without keys has after the rule of a ChangeCipherSpec, before the record is consumed (R145, R203). -/
def State.afterFirstCcs (s : State) (d : Dir) : State :=
  let derived := deriveKeys (versionClass s.conn.version) d (s.setHs d (hsMax (s.peer d).hsState .changeCipherSpecSeen))
  State.emit { derived with conn := { derived.conn with keyScheduleDone := true } } (.ccs d)

theorem changeCipherSpec_first {s : State} (ready : s.conn.ready = true) (noKeys : s.conn.keyScheduleDone = false)
    (version : s.conn.version = 0x0300 ∨ s.conn.version = 0x0301 ∨ s.conn.version = 0x0302) (d : Dir) :
    changeCipherSpec d s = (.done, s.afterFirstCcs d) := by
  have schedule := keySchedule_of_version (s := s.setHs d (hsMax (s.peer d).hsState .changeCipherSpecSeen))
    (by rwa [conn_setHs]) d
  simp only [changeCipherSpec, ready, if_true, ccsReady, conn_setHs, noKeys, Bool.false_eq_true, if_false, schedule]
  rfl

/-- The key block of a derivation (R209, R212). -/
def State.derivedKeyBlock (s : State) : Bytes :=
  keyBlock (versionClass s.conn.version) s.params.seedMode s.conn (masterSecret (versionClass s.conn.version) s.conn)
    (keyBlockLen (versionClass s.conn.version) s.suite)

section FirstCcs
variable (s : State) (d : Dir)

theorem conn_afterFirstCcs : (s.afterFirstCcs d).conn =
    { s.conn with masterSecret := masterSecret (versionClass s.conn.version) s.conn, keyScheduleDone := true } := by
  cases d <;> rfl

theorem keys0_afterFirstCcs :
    (s.afterFirstCcs d).peer0.keys = clientBank (versionClass s.conn.version) s.suite s.derivedKeyBlock := by
  cases d <;> rfl

theorem keys1_afterFirstCcs :
    (s.afterFirstCcs d).peer1.keys = serverBank (versionClass s.conn.version) s.suite s.derivedKeyBlock := by
  cases d <;> rfl

theorem response_afterFirstCcs : (s.afterFirstCcs d).response =
    { s.response with events := s.response.events ++ [.keysDerived d, .ccs d] } := by
  cases d <;> simp [State.afterFirstCcs, State.emit, deriveKeys, loadKeys]

theorem hsState_afterFirstCcs : ((s.afterFirstCcs d).peer d).hsState = hsMax (s.peer d).hsState .changeCipherSpecSeen := by
  cases d <;> rfl

theorem hsState_afterFirstCcs_other : ((s.afterFirstCcs d).peer d.other).hsState = (s.peer d.other).hsState := by
  cases d <;> rfl

theorem stream_afterFirstCcs (e : Dir) : ((s.afterFirstCcs d).peer e).stream = (s.peer e).stream := by
  cases d <;> cases e <;> rfl

end FirstCcs

theorem loadedBank_eq (p : CipherSuiteParams) (mac key iv : Bytes) :
    loadedBank p mac key iv =
      { macKey := mac, encKey := key, iv := iv, seq := 0,
        streamState := if p.family = .stream then some (streamInit p.cipher key) else none } := by
  unfold loadedBank
  cases p.family <;> rfl

/-- Settles O32: the rule derives the keys, and the record is consumed; the banks are those of R208. -/
theorem firstReadyCcsDerivesTheKeys : Obligations.FirstReadyCcsDerivesTheKeys := by
  refine ⟨⟨rfl, rfl, rfl, rfl, fun v => versionClass_of_unknown⟩, ?_⟩
  intro d vmaj vmin payload s l ⟨running, buffered⟩ ready noKeys loaded version cls m k v ms kb init
  have suite : s.suite = l.suite := by rw [State.suite, loaded]
  have ivLen : keyBlockIvLen cls l.suite = v := keyBlockIvLen_of_version version l.suite
  have block : s.derivedKeyBlock = kb := by rw [State.derivedKeyBlock, suite, keyBlockLen, ivLen]
  refine ⟨(s.afterFirstCcs d).advance d (5 + payload.length), ?ran, ?conn, ?client, ?server, ?response, ?hsState, ?hsOther,
    ?stream, ?streamOther, ?params, ?work, ?pending⟩
  case ran =>
    exact runRecord_done running buffered (changeCipherSpec_first ready noKeys version d)
      (by rw [State.avail, stream_afterFirstCcs, State.avail])
  case conn => rw [conn_advance, conn_afterFirstCcs]
  case client =>
    rw [← peer_clientToServer, keys_advance, peer_clientToServer, keys0_afterFirstCcs, suite, block, clientBank, ivLen,
      loadedBank_eq]
    rfl
  case server =>
    rw [← peer_serverToClient, keys_advance, peer_serverToClient, keys1_afterFirstCcs, suite, block, serverBank, ivLen,
      loadedBank_eq]
    rfl
  case response => rw [response_advance, response_afterFirstCcs]
  case hsState => rw [hsState_advance, hsState_afterFirstCcs]
  case hsOther => rw [hsState_advance, hsState_afterFirstCcs_other]
  case stream => rw [peer_advance_same, stream_afterFirstCcs]
  case streamOther => rw [peer_advance_other, stream_afterFirstCcs]
  case params | work | pending => cases d <;> rfl

end Sys2Proof.Machine

/-! ### What a step of a direction consumes, and what it leaves alone (R114, R130, R131) -/
namespace Sys2Proof.Machine

/-- `t` is `s` after bytes were at most consumed: no direction has more of them, no buffer changed, and neither did the
parameters, the requests and `conn.closed`. -/
structure Drained (s t : State) : Prop where
  avail_le : ∀ e, t.avail e ≤ s.avail e
  buf : ∀ e, (t.peer e).stream.buf = (s.peer e).stream.buf
  params : t.params = s.params
  pending : t.pending = s.pending
  closed : t.conn.closed = s.conn.closed

namespace Drained

theorem refl (s : State) : Drained s s :=
  ⟨fun _ => le_rfl, fun _ => rfl, rfl, rfl, rfl⟩

theorem trans {s t u : State} (h : Drained s t) (k : Drained t u) : Drained s u where
  avail_le e := (k.avail_le e).trans (h.avail_le e)
  buf e := (k.buf e).trans (h.buf e)
  params := k.params.trans h.params
  pending := k.pending.trans h.pending
  closed := k.closed.trans h.closed

theorem of_frame {s t : State} (h : RuleFrame s t) : Drained s t where
  avail_le e := (h.avail e).le
  buf e := by rw [h.stream e]
  params := h.params
  pending := h.pending
  closed := h.closed

theorem surface (s : State) (d : Dir) : Drained s (s.surface d) where
  avail_le e := by rcases eq_or_eq_other d e with rfl | rfl <;> simp
  buf e := buf_surface s d e
  params := params_surface s d
  pending := pending_surface s d
  closed := by rw [conn_surface]

theorem disable (s : State) (d : Dir) (e : FatalError) : Drained s (s.disable d e) where
  avail_le d' := by rw [avail_disable]; exact Nat.zero_le _
  buf d' := buf_disable s d e d'
  params := params_disable s d e
  pending := pending_disable s d e
  closed := by rw [conn_disable]

theorem advance (s : State) (d : Dir) (n : Nat) : Drained s (s.advance d n) where
  avail_le e := by rcases eq_or_eq_other d e with rfl | rfl <;> simp
  buf e := by rcases eq_or_eq_other d e with rfl | rfl <;> simp
  params := params_advance s d n
  pending := pending_advance s d n
  closed := by rw [conn_advance]

end Drained

/-- A dispatched record of at least one byte makes progress exactly when it is consumed or the engine is disabled by it (R130). -/
theorem finishRecord_drained {d : Dir} {n : Nat} {s u : State} (r : RuleResult) (frame : RuleFrame s u) (nonempty : 0 < n)
    (buffered : n ≤ s.avail d) :
    ∃ p t, finishRecord d n (r, u) = .next (p, t) ∧ (p = true ↔ t.avail d < s.avail d) ∧ Drained s t := by
  have sameAvail := frame.avail d
  have ruled := Drained.of_frame frame
  cases r with
  | done =>
    refine ⟨true, u.advance d n, finishRecord_done (by omega), ?_, ruled.trans (.advance u d n)⟩
    simp only [avail_advance_same, true_iff]
    omega
  | wait => exact ⟨false, u, rfl, by simp [sameAvail], ruled⟩
  | fatal e =>
    refine ⟨true, u.disable d e, rfl, ?_, ruled.trans (.disable u d e)⟩
    simp only [avail_disable, true_iff]
    omega

/-- A step of a direction completes, makes progress exactly when it consumes, and appends nothing (R114, R130, R131). -/
theorem stepDir_drained (d : Dir) (s : State) :
    ∃ p t, stepDir d s = .next (p, t) ∧ (p = true ↔ t.avail d < s.avail d) ∧ Drained s t := by
  cases running : s.conn.disabled with
  | true => exact ⟨_, _, stepDir_of_disabled running, by simp, .surface s d⟩
  | false =>
    cases fetched : fetchRecord d s with
    | none => exact ⟨_, _, stepDir_of_needMoreData running fetched, by simp, .refl s⟩
    | some r =>
      obtain ⟨header, buffered, _, _⟩ := fetchRecord_eq_some fetched
      rw [stepDir_of_record running fetched]
      exact finishRecord_drained _ (dispatch_frame _ _ _ _ _ _) (by omega) buffered

/-- Settles O15: what every step of a direction does, said of the one answer it gives. -/
theorem progressConsumesAByte : Obligations.ProgressConsumesAByte := by
  intro d s t p stepped
  obtain ⟨q, u, stepped', progress, drained⟩ := stepDir_drained d s
  cases stepped.symm.trans stepped'
  exact ⟨progress, drained.avail_le, drained.buf⟩

/-! ### The loops of the drain, without their bounds (R113) -/

/-- The inner loop answers its flag, or true once it has consumed, and ends in a state that the flag does not reach. -/
theorem runDirLoop_drained (e : Dir) (fuel : Nat) (s : State) :
    ∃ q u, (∀ p, runDirLoop e fuel p s = .next (p || q, u)) ∧ (q = true ↔ u.avail e < s.avail e) ∧ Drained s u := by
  induction fuel generalizing s with
  | zero => exact ⟨false, s, fun p => by rw [runDirLoop, Bool.or_false], by simp, .refl s⟩
  | succ fuel ih =>
    obtain ⟨p, t, stepped, progress, drained⟩ := stepDir_drained e s
    cases p with
    | false => exact ⟨false, t, fun p => by simp only [runDirLoop, stepped, Bool.or_false], progress, drained⟩
    | true =>
      obtain ⟨q, u, ran, _, drained'⟩ := ih t
      have consumed : u.avail e < s.avail e := (drained'.avail_le e).trans_lt (progress.mp rfl)
      exact ⟨true, u, fun p => by simp only [runDirLoop, stepped, ran, Bool.true_or, Bool.or_true], by simp [consumed],
        drained.trans drained'⟩

/-- Any fuel above the available bytes gives the same run of the inner loop (R114). -/
theorem runDirLoop_fuel (e : Dir) (n m : Nat) (p : Bool) (s : State) (hn : s.avail e < n) (hm : s.avail e < m) :
    runDirLoop e n p s = runDirLoop e m p s := by
  induction n generalizing m p s with
  | zero => omega
  | succ n ih =>
    cases m with
    | zero => omega
    | succ m =>
      obtain ⟨q, t, stepped, progress, _⟩ := stepDir_drained e s
      cases q with
      | false => simp only [runDirLoop, stepped]
      | true =>
        have consumed := progress.mp rfl
        simp only [runDirLoop, stepped]
        exact ih m true t (by omega) (by omega)

theorem runDir_drained (e : Dir) (s : State) :
    ∃ q u, runDir e s = .next (q, u) ∧ (q = true ↔ u.avail e < s.avail e) ∧ Drained s u := by
  obtain ⟨q, u, ran, progress, drained⟩ := runDirLoop_drained e (s.avail e + 1) s
  exact ⟨q, u, ran false, progress, drained⟩

theorem runDir_of_blocked {e : Dir} {s t : State} (blocked : stepDir e s = .next (false, t)) :
    runDir e s = .next (false, t) := by
  simp only [runDir, runDirLoop, blocked]

theorem runDir_of_progress {e : Dir} {s t u : State} {q : Bool} (stepped : stepDir e s = .next (true, t))
    (ran : runDir e t = .next (q, u)) : runDir e s = .next (true, u) := by
  obtain ⟨_, _, stepped', progress, _⟩ := stepDir_drained e s
  cases stepped.symm.trans stepped'
  have consumed := progress.mp rfl
  obtain ⟨_, _, loop, _⟩ := runDirLoop_drained e (t.avail e + 1) t
  cases ran.symm.trans (loop false)
  calc runDir e s
    _ = runDirLoop e (s.avail e) true t := by simp only [runDir, runDirLoop, stepped]
    _ = runDirLoop e (t.avail e + 1) true t := runDirLoop_fuel e _ _ true t consumed (Nat.lt_succ_self _)
    _ = .next (true, u) := loop true

/-- The bytes not consumed in either direction, which bound the rounds of a drain (R114). -/
def State.totalAvail (s : State) : Nat :=
  s.avail .clientToServer + s.avail .serverToClient

theorem drain_eq_drainLoop (d : Dir) (s : State) : drain d s = drainLoop d (s.totalAvail + 1) s := rfl

theorem Drained.totalAvail_lt {s t : State} (h : Drained s t) (e : Dir) (consumed : t.avail e < s.avail e) :
    t.totalAvail < s.totalAvail := by
  have client := h.avail_le .clientToServer
  have server := h.avail_le .serverToClient
  unfold State.totalAvail
  cases e <;> omega

/-- A round of the drain completes, and consumes when either direction made progress. -/
theorem drainRound_consumes (d : Dir) (s : State) :
    ∃ pa s1 pb s2, runDir d s = .next (pa, s1) ∧ runDir d.other s1 = .next (pb, s2) ∧
      ((pa || pb) = true → s2.totalAvail < s.totalAvail) := by
  obtain ⟨pa, s1, ranFirst, progressFirst, drainedFirst⟩ := runDir_drained d s
  obtain ⟨pb, s2, ranSecond, progressSecond, drainedSecond⟩ := runDir_drained d.other s1
  refine ⟨pa, s1, pb, s2, ranFirst, ranSecond, fun progress => ?_⟩
  have drained := drainedFirst.trans drainedSecond
  rcases Bool.or_eq_true_iff.mp progress with first | second
  · exact drained.totalAvail_lt d ((drainedSecond.avail_le d).trans_lt (progressFirst.mp first))
  · exact drained.totalAvail_lt d.other ((progressSecond.mp second).trans_le (drainedFirst.avail_le d.other))

theorem drainLoop_succ {d : Dir} {s s1 s2 : State} {pa pb : Bool} (n : Nat) (first : runDir d s = .next (pa, s1))
    (second : runDir d.other s1 = .next (pb, s2)) :
    drainLoop d (n + 1) s = if pa || pb then drainLoop d n s2 else .next s2 := by
  simp only [drainLoop, first, second]

/-- Any fuel above the unconsumed bytes gives the same drain (R114). -/
theorem drainLoop_fuel (d : Dir) (n m : Nat) (s : State) (hn : s.totalAvail < n) (hm : s.totalAvail < m) :
    drainLoop d n s = drainLoop d m s := by
  induction n generalizing m s with
  | zero => omega
  | succ n ih =>
    cases m with
    | zero => omega
    | succ m =>
      obtain ⟨pa, s1, pb, s2, first, second, consumes⟩ := drainRound_consumes d s
      rw [drainLoop_succ n first second, drainLoop_succ m first second]
      split
      case isTrue progress =>
        have consumed := consumes progress
        exact ih m s2 (by omega) (by omega)
      case isFalse => rfl

theorem drain_of_blocked {d : Dir} {s s1 s2 : State} (first : runDir d s = .next (false, s1))
    (second : runDir d.other s1 = .next (false, s2)) : drain d s = .next s2 :=
  drainLoop_succ _ first second

theorem drain_of_progress {d : Dir} {s s1 s2 : State} {pa pb : Bool} (first : runDir d s = .next (pa, s1))
    (second : runDir d.other s1 = .next (pb, s2)) (progress : (pa || pb) = true) : drain d s = drain d s2 := by
  obtain ⟨_, _, _, _, first', second', consumes⟩ := drainRound_consumes d s
  cases first.symm.trans first'
  cases second.symm.trans second'
  rw [drain_eq_drainLoop, drainLoop_succ _ first second, if_pos progress]
  exact drainLoop_fuel d _ _ s2 (consumes progress) (Nat.lt_succ_self _)

/-- Settles O14: each loop goes on after a step, or a round, that consumes, and any fuel above the available bytes is enough
for it. -/
theorem drainIsTheLoopOfTheSpec : Obligations.DrainIsTheLoopOfTheSpec := by
  refine ⟨fun e s => ?inner, fun d s => ?outer⟩
  case inner =>
    obtain ⟨p, t, stepped, _⟩ := stepDir_drained e s
    obtain ⟨q, u, ran, _⟩ := runDir_drained e t
    refine ⟨p, t, stepped, ?_, ?_⟩
    · rintro rfl
      exact runDir_of_blocked stepped
    · rintro rfl
      exact ⟨q, u, ran, runDir_of_progress stepped ran⟩
  case outer =>
    obtain ⟨pa, s1, pb, s2, first, second, _⟩ := drainRound_consumes d s
    refine ⟨pa, s1, pb, s2, first, second, ?_, fun progress => drain_of_progress first second ?_⟩
    · rintro ⟨rfl, rfl⟩
      exact drain_of_blocked first second
    · rwa [← Bool.not_eq_false, Bool.or_eq_false_iff]

end Sys2Proof.Machine

/-! ### FlushRaw (R118, R120, R264) -/
namespace Sys2Proof.Machine

theorem surface_of_avail_eq_zero {s : State} {d : Dir} (empty : s.avail d = 0) : s.surface d = s := by
  simp [State.surface, empty]

/-- Surfacing a direction moves its cursor past what was available, and nothing else of its bank. -/
theorem peer_surface_same (s : State) (d : Dir) :
    (s.surface d).peer d =
      { s.peer d with stream := { (s.peer d).stream with cursor := (s.peer d).stream.cursor + s.avail d } } := by
  unfold State.surface
  split
  case isTrue => simp
  case isFalse empty => rw [Nat.eq_zero_of_not_pos empty, Nat.add_zero]

theorem peer_flushRaw (s : State) (d e : Dir) :
    (s.flushRaw d).peer e =
      { s.peer e with stream := { (s.peer e).stream with cursor := (s.peer e).stream.cursor + s.avail e } } := by
  rcases eq_or_eq_other d e with rfl | rfl
  · have otherLeaves := peer_surface_other (s.surface e) e.other
    rw [other_other] at otherLeaves
    exact otherLeaves.trans (peer_surface_same s e)
  · rw [State.flushRaw, peer_surface_same, peer_surface_other, avail_surface_other]

theorem avail_flushRaw (s : State) (d e : Dir) : (s.flushRaw d).avail e = 0 := by
  have moved := peer_flushRaw s d e
  simp only [State.avail] at moved ⊢
  rw [moved]
  simp only
  omega

/-- Where the cursors are in their buffers, the flushed streams end consumed (R32). -/
theorem stream_flushRaw {s : State} (inBuffers : s.cursorsInBuffers) (d e : Dir) :
    ((s.flushRaw d).peer e).stream = { buf := (s.peer e).stream.buf, cursor := (s.peer e).stream.buf.length } := by
  rw [peer_flushRaw, State.avail, Nat.add_sub_cancel' (inBuffers e)]

theorem events_flushRaw (s : State) (d : Dir) :
    (s.flushRaw d).response.events = s.response.events ++ (rawEvents s d ++ rawEvents s d.other) := by
  simp [State.flushRaw, rawEvents]

theorem rawEvents_eq (s : State) (d : Dir) :
    rawEvents s d = if s.unconsumed d = [] then [] else [.raw d (s.unconsumed d)] := by
  rw [rawEvents, ← avail_eq_length]
  cases s.unconsumed d <;> simp

end Sys2Proof.Machine

/-! ### FEED (R112, R119, R120) -/
namespace Sys2Proof.Machine

theorem feedDir_of_index {b : Byte} {d : Dir} (names : b.toNat = d.index) : feedDir b = some d := by
  cases d <;> simp [feedDir, names, Dir.index]

/-- A direction byte above 1 names no direction (R93, R119). -/
theorem feedDir_of_one_lt {b : Byte} (above : 1 < b.toNat) : feedDir b = none := by
  unfold feedDir
  split
  case h_1 => omega
  case h_2 => omega
  case h_3 => rfl

/-- FEED on an open engine is the append, the drain and the result code (R112). -/
theorem exec_feed_of_drain {s u : State} {d : Dir} {b : Byte} {x : Bytes} (names : b.toNat = d.index)
    (opened : s.conn.closed = false) (drained : drain d ((s.respond .ok).append d x) = .next u) :
    exec (.feed b x) s = .next (u.setResult (feedResult s.conn.disabled u.conn.disabled)) := by
  change execFeed b x s = _
  simp only [execFeed, opened, feedDir_of_index names, feedOpen, drained, Bool.false_eq_true, if_false]

/-- A drain completes, and consumes at most. -/
theorem drain_drained (d : Dir) (s : State) : ∃ u, drain d s = .next u ∧ Drained s u :=
  drain_keeps (P := Drained s)
    (fun e t kept =>
      have ⟨p, u, stepped, _, drained⟩ := stepDir_drained e t
      ⟨p, u, stepped, kept.trans drained⟩)
    d s (.refl s)

/-- Settles O13: the drain after the append completes, and changes no buffer, parameter or request. -/
theorem feedAppendsDrainsAndAnswers : Obligations.FeedAppendsDrainsAndAnswers := by
  intro s d b x names opened
  obtain ⟨u, ran, drained⟩ := drain_drained d ((s.respond .ok).append d x)
  refine ⟨u, ran, exec_feed_of_drain names opened ran, ?_, ?_, ?_, ?_, ?_⟩
  · simpa using drained.buf d
  · simpa using drained.buf d.other
  · simpa using drained.params
  · simpa using drained.pending
  · simpa [opened] using drained.closed

/-- A stream with a whole record at its head decodes (R70, R130). -/
theorem decode_unconsumed_of_fetchRecord {d : Dir} {s : State} {r : Bytes} (hs : HandshakeState)
    (fetched : fetchRecord d s = some r) : ∃ i rest, decode (.record d hs) (s.unconsumed d) = .ok (i, rest) := by
  obtain ⟨header, _, head, len⟩ := fetchRecord_eq_some fetched
  have split := splitFrame_append (hdr := 5) (off := 3) (h := r.take 5) (body := r.drop 5) ((s.unconsumed d).drop r.length)
    (List.length_take_of_le header) (by rw [List.length_drop]; omega)
  have whole : r ++ (s.unconsumed d).drop r.length = s.unconsumed d := by
    conv_lhs => enter [1]; rw [head]
    exact List.take_append_drop _ _
  rw [List.take_append_drop, whole] at split
  exact ⟨_, _, by simp only [decode, decodeRecord, split]; rfl⟩

theorem fetchRecord_of_needMoreData {d : Dir} {s : State} {hs : HandshakeState}
    (short : decode (.record d hs) (s.unconsumed d) = .error .needMoreData) : fetchRecord d s = none := by
  cases fetched : fetchRecord d s with
  | none => rfl
  | some r =>
    obtain ⟨i, rest, decoded⟩ := decode_unconsumed_of_fetchRecord hs fetched
    cases short.symm.trans decoded

/-- A drain of a running engine without a whole record in either direction changes nothing (R113, R130). -/
theorem drain_of_needMoreData {d : Dir} {s : State} (running : s.conn.disabled = false) (short : ∀ e, fetchRecord e s = none) :
    drain d s = .next s :=
  have blocked (e : Dir) : runDir e s = .next (false, s) := runDir_of_blocked (stepDir_of_needMoreData running (short e))
  drain_of_blocked (blocked d) (blocked d.other)

/-- Settles O16: neither direction has a record for the drain, so only the append and the result OK are left. -/
theorem feedOfPartialRecordOnlyAppends : Obligations.FeedOfPartialRecordOnlyAppends := by
  intro s d b x names opened running short
  have noRecord (e : Dir) : fetchRecord e ((s.respond .ok).append d x) = none := by
    have sameStream : (((s.respond .ok).append d x).peer e).stream = ((s.append d x).peer e).stream := by
      cases d <;> cases e <;> rfl
    rw [fetchRecord_congr sameStream]
    exact fetchRecord_of_needMoreData (short e .start)
  have running' : s.conn.disabled = false := running
  have drained := drain_of_needMoreData (d := d) (by simpa using running') noRecord
  rw [exec_feed_of_drain names opened drained, conn_append, conn_respond, running']
  cases d <;> rfl

/-! #### A disabled engine -/

/-- RunDir on a disabled engine is one passthrough (R113, R131). -/
theorem runDir_of_disabled {d : Dir} {s : State} (disabled : s.conn.disabled = true) :
    ∃ p, runDir d s = .next (p, s.surface d) := by
  have stepped := stepDir_of_disabled (d := d) disabled
  by_cases left : 0 < s.avail d
  · have blocked : stepDir d (s.surface d) = .next (false, s.surface d) := by
      rw [stepDir_of_disabled (by rwa [conn_surface]), passthrough, surface_of_avail_eq_zero (avail_surface_same s d)]
      simp
    exact ⟨true, runDir_of_progress (by simpa [passthrough, left] using stepped) (runDir_of_blocked blocked)⟩
  · exact ⟨false, runDir_of_blocked (by simpa [passthrough, left] using stepped)⟩

theorem drain_of_disabled_of_empty {d : Dir} {s : State} (disabled : s.conn.disabled = true) (empty : ∀ e, s.avail e = 0) :
    drain d s = .next s := by
  have blocked (e : Dir) : runDir e s = .next (false, s) :=
    runDir_of_blocked (by
      rw [stepDir_of_disabled disabled, passthrough, surface_of_avail_eq_zero (empty e)]
      simp [empty e])
  exact drain_of_blocked (blocked d) (blocked d.other)

/-- The drain of a disabled engine surfaces direction `d` and then the other (R113, R120, R131): one round does it, and a second
one, if there is one, finds nothing. -/
theorem drain_of_disabled {d : Dir} {s : State} (disabled : s.conn.disabled = true) : drain d s = .next (s.flushRaw d) := by
  obtain ⟨pa, first⟩ := runDir_of_disabled (d := d) disabled
  obtain ⟨pb, second⟩ := runDir_of_disabled (d := d.other) (s := s.surface d) (by rwa [conn_surface])
  cases progress : pa || pb with
  | true =>
    rw [drain_of_progress first second progress]
    exact drain_of_disabled_of_empty (by rwa [conn_surface, conn_surface]) (avail_flushRaw s d)
  | false =>
    obtain ⟨rfl, rfl⟩ := Bool.or_eq_false_iff.mp progress
    exact drain_of_blocked first second

/-- Settles O17: the drain after the append is one FlushRaw, of a stream that ends with the new bytes. -/
theorem feedWhileDisabledSurfacesBytes : Obligations.FeedWhileDisabledSurfacesBytes := by
  intro s d b x names opened disabled inBuffers
  have inBuffers' : ((s.respond .ok).append d x).cursorsInBuffers :=
    Move.cursorsInBuffers (K := False) (.append (s := s.respond .ok) d x opened) inBuffers
  have unconsumed : ((s.respond .ok).append d x).unconsumed d = s.unconsumed d ++ x :=
    unconsumed_append_same (s.respond .ok) d x (inBuffers d)
  have fed := exec_feed_of_drain (x := x) names opened
    (drain_of_disabled (d := d) (s := (s.respond .ok).append d x) (by simpa using disabled))
  refine ⟨_, fed, ?result, ?dump, ?events, ?stream, ?other, fun e => ⟨?hsState, ?keys⟩, ?conn, ?params, ?work, ?pending⟩
  case result => simp [feedResult, disabled]
  case events =>
    rw [events_setResult, events_flushRaw, rawEvents_eq _ d, unconsumed]
    simp [rawEvents]
  case stream => rw [peer_setResult, stream_flushRaw inBuffers']; simp
  case other => rw [peer_setResult, stream_flushRaw inBuffers']; simp
  all_goals simp [State.flushRaw]

end Sys2Proof.Machine

/-! ### FINISH (R118, R119) -/
namespace Sys2Proof.Machine

theorem exec_finish_of_closed {s : State} (closed : s.conn.closed = true) : exec .finish s = .next (s.respond .refused) :=
  if_pos closed

theorem exec_finish_of_open {s : State} (opened : s.conn.closed = false) :
    exec .finish s = .next ((finishOpen s).setResult (if s.conn.disabled then .disabled else .ok)) :=
  if_neg (Bool.eq_false_iff.mp opened)

theorem finishOpen_eq_flushRaw (s : State) :
    finishOpen s = { (s.respond .ok).flushRaw .clientToServer with conn := { s.conn with closed := true } } := rfl

/-- Settles O19: an open engine is flushed from direction 0 on, then closed. -/
theorem finishSurfacesAndCloses : Obligations.FinishSurfacesAndCloses := by
  intro s
  refine ⟨exec_finish_of_closed, fun opened => ⟨_, exec_finish_of_open opened, ?_⟩⟩
  rw [finishOpen_eq_flushRaw]
  refine ⟨rfl, ?dump, ?events, rfl, fun d => ?peer, ?params, ?work, ?pending⟩
  case events => exact events_flushRaw (s.respond .ok) .clientToServer
  case peer => exact peer_flushRaw (s.respond .ok) .clientToServer d
  all_goals simp [State.flushRaw]

end Sys2Proof.Machine

/-! ### CREATE, the refused commands, and the reset state (R111, R119, R290) -/
namespace Sys2Proof.Machine

@[simp] theorem peer_fresh (p : Params) (pending : List Request) (d : Dir) : (State.fresh p pending).peer d = resetPeer := by
  cases d <;> rfl

/-- Settles O11: CREATE answers the new engine, whose registers are read off. -/
theorem createResetsEveryRegister : Obligations.CreateResetsEveryRegister := by
  intro p s
  refine ⟨State.fresh p s.pending, rfl, ?_⟩
  simp only [peer_fresh]
  simp [State.fresh, resetConn, resetPeer, resetKeys]

theorem exec_feed_of_closed {s : State} (closed : s.conn.closed = true) (d : Byte) (x : Bytes) :
    exec (.feed d x) s = .next (s.respond .refused) :=
  if_pos closed

theorem exec_feed_of_bad_direction {d : Byte} (above : 1 < d.toNat) (x : Bytes) (s : State) :
    exec (.feed d x) s = .next (s.respond .refused) := by
  change execFeed d x s = _
  simp only [execFeed, feedDir_of_one_lt above, ite_self]

/-- Settles O12: each refused command answers the bare response REFUSED. -/
theorem refusedCommandsWriteNothing : Obligations.RefusedCommandsWriteNothing := by
  intro s
  refine ⟨fun p op x create feed status finish => ⟨?decoded, rfl⟩, fun d x refused => ?feed, exec_finish_of_closed⟩
  case decoded => exact decodeCommand_of_unlisted (by simpa using ⟨create, feed, status, finish⟩) p x
  case feed =>
    obtain above | closed := refused
    · exact exec_feed_of_bad_direction above x s
    · exact exec_feed_of_closed closed d x

/-- Settles O22: reset is a new engine. -/
theorem newEngineHasTheInvariant : Obligations.NewEngineHasTheInvariant :=
  ⟨State.Inv.fresh, State.Inv.fresh defaultParams []⟩

end Sys2Proof.Machine

/-! ### STATUS (R96, R116) -/
namespace Sys2Proof.Machine

/-- The big-endian digits, the most significant one first (R10). -/
theorem encBe_eq_map_range (w n : Nat) :
    encBe w n = (List.range w).map fun k => BitVec.ofNat 8 (n / 256 ^ (w - 1 - k)) := by
  induction w with
  | zero => rfl
  | succ w ih =>
    rw [encBe, ih, List.range_succ_eq_map, List.map_cons, List.map_map]
    congr 2
    funext k
    simp only [Function.comp_apply]
    congr 3
    omega

theorem bitByte_eq (b : Bool) : bitByte b = [if b then 0x01 else 0x00] := by cases b <;> rfl

/-- The dump of a bank: the code of its handshake state, and then the rest (R26, R27). -/
theorem peerDump_eq_cons (s : State) (d : Dir) :
    peerDump s d =
      BitVec.ofNat 8 (s.peer d).hsState.rank ::
        (prefixed (s.unconsumed d) ++ Config.cursorBytes (s.peer d).stream.cursor ++
         prefixed (s.peer d).keys.macKey ++ prefixed (s.peer d).keys.encKey ++ prefixed (s.peer d).keys.iv ++
         encBe 8 (s.peer d).keys.seq.toNat) := rfl

theorem statusDump_eq_flatMap (s : State) :
    statusDump s = connDump s.conn ++ [Dir.clientToServer, Dir.serverToClient].flatMap (peerDump s) := by
  simp only [statusDump, List.flatMap_cons, List.flatMap_nil, List.append_nil, List.append_assoc]

/-- The byte strings after the randoms, and the flags at the end, as lists of registers (R20, R22, R25). -/
theorem connDump_eq (c : Conn) :
    connDump c =
      encBe 2 c.version.toNat ++ encBe 2 c.cipherSuite.toNat ++
      (match c.params with
        | some l => encBe 2 l.id.toNat
        | none => []) ++
      [c.compression] ++ c.clientRandom ++ c.serverRandom ++
      ([c.clientSessionId, c.serverSessionId, c.clientTicket, c.serverTicket, c.sni, c.premasterSecret,
        c.masterSecret].flatMap prefixed) ++
      [c.errorKind, c.errorDetail, dirByte c.errorDir] ++
      ([c.clientRandomSet, c.serverRandomSet, c.premasterSet, c.keyScheduleDone, c.disabled, c.closed].map fun b =>
        if b then 0x01 else 0x00) := by
  unfold connDump
  cases c.params <;>
    simp only [bitByte_eq, List.flatMap_cons, List.flatMap_nil, List.map_cons, List.map_nil, List.append_assoc,
      List.cons_append, List.nil_append, List.append_nil]

/-- Settles O18: the dump is that of the connection registers and then, bank by bank, of the banks. -/
theorem statusDumpsTheRegisters : Obligations.StatusDumpsTheRegisters := by
  refine ⟨fun bs => prefixed_of_lt, encBe_eq_map_range, rfl, rfl, rfl, rfl, fun s => ⟨statusDump s, rfl, ?_⟩⟩
  have dump := statusDump_eq_flatMap s
  rw [connDump_eq, funext (peerDump_eq_cons s)] at dump
  exact dump

end Sys2Proof.Machine

/-! ### A disabled engine (R131, R266) -/
namespace Sys2Proof.Machine

/-- `t` is `s` after nothing was interpreted: of the connection registers only `conn.closed` may differ, of the banks only the
streams, and every new event is a Raw one. -/
structure OnlySurfaces (s t : State) : Prop where
  conn : t.conn = { s.conn with closed := t.conn.closed }
  work : t.work = s.work
  hsState : ∀ d, (t.peer d).hsState = (s.peer d).hsState
  keys : ∀ d, (t.peer d).keys = (s.peer d).keys
  events : ∀ e ∈ t.response.events, e ∈ s.response.events ∨ ∃ d bs, e = .raw d bs

namespace OnlySurfaces

theorem refl (s : State) : OnlySurfaces s s :=
  ⟨rfl, rfl, fun _ => rfl, fun _ => rfl, fun _ => .inl⟩

theorem trans {s t u : State} (h : OnlySurfaces s t) (k : OnlySurfaces t u) : OnlySurfaces s u where
  conn := by rw [k.conn, h.conn]
  work := k.work.trans h.work
  hsState d := (k.hsState d).trans (h.hsState d)
  keys d := (k.keys d).trans (h.keys d)
  events e new := (k.events e new).elim (h.events e) .inr

theorem surface (s : State) (d : Dir) : OnlySurfaces s (s.surface d) where
  conn := by rw [conn_surface]
  work := work_surface s d
  hsState := hsState_surface s d
  keys := keys_surface s d
  events e new := by
    rw [events_surface, List.mem_append] at new
    obtain old | raw := new
    · exact .inl old
    · unfold rawEvents at raw
      split at raw
      · exact .inr ⟨d, s.unconsumed d, List.mem_singleton.mp raw⟩
      · cases raw

theorem flushRaw (s : State) (d : Dir) : OnlySurfaces s (s.flushRaw d) :=
  (surface s d).trans (surface _ d.other)

theorem append (s : State) (d : Dir) (bs : Bytes) : OnlySurfaces s (s.append d bs) where
  conn := by rw [conn_append]
  work := work_append s d bs
  hsState e := hsState_append s d e bs
  keys e := keys_append s d e bs
  events e old := .inl (by rwa [response_append] at old)

/-- A response whose events were there already. -/
theorem respond {s : State} {r : Response} (old : r.events ⊆ s.response.events) :
    OnlySurfaces s { s with response := r } where
  conn := rfl
  work := rfl
  hsState d := by rw [peer_with_response]
  keys d := by rw [peer_with_response]
  events _ isOld := .inl (old isOld)

theorem close (s : State) : OnlySurfaces s { s with conn := { s.conn with closed := true } } where
  conn := rfl
  work := rfl
  hsState d := by rw [peer_with_conn]
  keys d := by rw [peer_with_conn]
  events _ := .inl

end OnlySurfaces

section Disabled
variable {s : State} (disabled : s.conn.disabled = true)
include disabled

theorem runRecord_of_disabled (d : Dir) (n : Nat) (rule : State → RuleResult × State) :
    stateOf (runRecord d n rule s) = .next (s.surface d) := by
  rw [runRecord, if_pos disabled]
  rfl

theorem runMessage_of_disabled (d : Dir) (ty : Byte) (body : Bytes) (rule : State → RuleResult × State) :
    runMessage d ty body rule s = s :=
  if_pos disabled

theorem runHelloPart_of_disabled (rule : State → RuleResult × State) : runHelloPart rule s = s :=
  if_pos disabled

/-- FEED on a disabled engine is refused, or appends and surfaces (R119, R120). -/
theorem exec_feed_of_disabled (b : Byte) (x : Bytes) :
    exec (.feed b x) s = .next (s.respond .refused) ∨
    ∃ d r, exec (.feed b x) s = .next ((((s.respond .ok).append d x).flushRaw d).setResult r) := by
  cases closed : s.conn.closed with
  | true => exact .inl (exec_feed_of_closed closed b x)
  | false =>
    by_cases above : 1 < b.toNat
    · exact .inl (exec_feed_of_bad_direction above x s)
    · have named : ∃ d : Dir, b.toNat = d.index := by
        obtain first | second : b.toNat = 0 ∨ b.toNat = 1 := by omega
        · exact ⟨.clientToServer, first⟩
        · exact ⟨.serverToClient, second⟩
      obtain ⟨d, names⟩ := named
      exact .inr ⟨d, _, exec_feed_of_drain names closed (drain_of_disabled (by rwa [conn_append, conn_respond]))⟩

/-- On a disabled engine a record surfaces its direction, a message, an extension or a list entry does nothing, and a command
answers, appends, surfaces or closes. -/
theorem exec_of_disabled (i : Instr) (notCreate : ∀ p, i ≠ .create p) : ∃ t, exec i s = .next t ∧ OnlySurfaces s t := by
  have responded (r : ResultCode) : OnlySurfaces s (s.respond r) := .respond (List.nil_subset _)
  cases i with
  | ccs d | alertPlain d | alertProtected d | handshakePlain d | handshakeProtected d | appData d | recordIllegal d =>
    exact ⟨_, runRecord_of_disabled disabled d _ _, .surface s d⟩
  | hsHelloRequest | hsClientHello | hsServerHello | hsNewSessionTicket | hsCertificate | hsServerKeyExchange
  | hsCertificateRequest | hsServerHelloDone | hsCertificateVerify | hsClientKeyExchange | hsFinished | hsUnknown =>
    exact ⟨s, congrArg Host.Outcome.next (runMessage_of_disabled disabled _ _ _ _), .refl s⟩
  | extServerName | extSessionTicket | extOther | sniHostName | sniOther =>
    exact ⟨s, congrArg Host.Outcome.next (runHelloPart_of_disabled disabled _), .refl s⟩
  | create p => exact absurd rfl (notCreate p)
  | feed b x =>
    obtain refused | ⟨d, r, fed⟩ := exec_feed_of_disabled disabled b x
    · exact ⟨_, refused, responded .refused⟩
    · exact ⟨_, fed, (((responded .ok).trans (.append _ d x)).trans (.flushRaw _ d)).trans (.respond (List.Subset.refl _))⟩
  | status => exact ⟨_, rfl, .respond (List.nil_subset _)⟩
  | finish =>
    cases closed : s.conn.closed with
    | true => exact ⟨_, exec_finish_of_closed closed, responded .refused⟩
    | false =>
      have flushed := (responded .ok).trans (.flushRaw _ .clientToServer)
      have ended := flushed.trans (.close _)
      rw [State.flushRaw, conn_surface, conn_surface, conn_respond] at ended
      exact ⟨_, exec_finish_of_open closed, ended.trans (.respond (List.Subset.refl _))⟩
  | cmdIllegal op => exact ⟨_, rfl, responded .refused⟩

end Disabled

/-- Settles O24: what an instruction leaves of a disabled engine, whatever its kind. -/
theorem disabledEngineInterpretsNothing : Obligations.DisabledEngineInterpretsNothing := by
  intro i s t notCreate disabled ran
  obtain ⟨u, ran', only⟩ := exec_of_disabled disabled i notCreate
  cases ran.symm.trans ran'
  exact ⟨only.conn, only.work, fun d => ⟨only.hsState d, only.keys d⟩, only.events⟩

/-- Settles O8: the step is passthrough, which surfaces what is available, if anything is. -/
theorem disabledStepSurfacesRaw : Obligations.DisabledStepSurfacesRaw := by
  intro s d disabled
  refine ⟨fun empty => ?_, fun left => ?_⟩
  · rw [stepDir_of_disabled disabled, passthrough, surface_of_avail_eq_zero empty, empty]
    rfl
  · rw [stepDir_of_disabled disabled, passthrough, State.surface, if_pos left, decide_eq_true left]
    rfl

end Sys2Proof.Machine

/-! ### A step of a direction and the record at its cursor (R130, R131) -/
namespace Sys2Proof.Machine

/-- A record is decoded alike whatever follows it: its encoding is what was read. -/
theorem decode_record_append {d : Dir} {hs : HandshakeState} {bs x : Bytes} {i : Instr}
    (decoded : decode (.record d hs) bs = .ok (i, x)) (rest : Bytes) :
    decode (.record d hs) (bs ++ rest) = .ok (i, x ++ rest) := by
  obtain ⟨rfl, admits, wellFormed⟩ := decodedBytesAreTheEncoding _ _ _ _ decoded
  rw [List.append_assoc]
  exact decodeReadsBackEveryEncoding _ i _ (wellFormed fun _ => Context.noConfusion) admits

theorem peek_of_unconsumed_eq {s : State} {d : Dir} {bs rest : Bytes} (h : s.unconsumed d = bs ++ rest) :
    s.peek d bs.length = some bs := by
  have within : bs.length ≤ s.avail d := by
    rw [← avail_eq_length, h, List.length_append]
    exact Nat.le_add_right _ _
  rw [peek_of_le within, h, List.take_left]

/-- A stream that starts with a whole frame has that frame fetched (R70, R130). -/
theorem fetchRecord_of_splitFrame {s : State} {d : Dir} {hdr payload rest : Bytes}
    (frame : splitFrame 5 3 (s.unconsumed d) = .ok (hdr, payload, rest)) : fetchRecord d s = some (hdr ++ payload) := by
  obtain ⟨whole, hdrLen, payloadLen⟩ := splitFrame_ok frame
  have header : s.peek d 5 = some hdr := by
    rw [← hdrLen]
    exact peek_of_unconsumed_eq (by rw [whole, List.append_assoc])
  rw [fetchRecord, header, Option.bind_some, ← payloadLen, ← hdrLen, ← List.length_append]
  exact peek_of_unconsumed_eq whole

/-- A stream that decodes has a record at its cursor, of which the decoder reads the same instruction (R130). -/
theorem exists_fetchRecord_of_decode {s : State} {d : Dir} {hs : HandshakeState} {i : Instr} {x : Bytes}
    (decoded : decode (.record d hs) (s.unconsumed d) = .ok (i, x)) :
    ∃ r, fetchRecord d s = some r ∧ decode (.record d hs) r = .ok (i, []) := by
  cases frame : splitFrame 5 3 (s.unconsumed d) with
  | error e => simp [decode, decodeRecord, frame] at decoded
  | ok parts =>
    obtain ⟨hdr, payload, rest⟩ := parts
    obtain ⟨whole, _, _⟩ := splitFrame_ok frame
    have fetched := fetchRecord_of_splitFrame frame
    have record := decode_of_fetchRecord hs fetched
    have again := decode_record_append record rest
    rw [← whole, decoded] at again
    cases again
    exact ⟨_, fetched, record⟩

/-- The record decoder has one error, NeedMoreData (R130). -/
theorem eq_needMoreData_of_decode {d : Dir} {hs : HandshakeState} {bs : Bytes} {e : DecodeError}
    (failed : decode (.record d hs) bs = .error e) : e = .needMoreData := by
  simp only [decode, decodeRecord] at failed
  split at failed
  · cases failed
    rfl
  · cases failed

/-- A step of a running direction whose unconsumed bytes decode is what exec leaves (R130, R134). -/
theorem stepDir_of_decode {s : State} {d : Dir} {i : Instr} {x : Bytes} (running : s.conn.disabled = false)
    (decoded : decode (.record d (s.peer d).hsState) (s.unconsumed d) = .ok (i, x)) : stateOf (stepDir d s) = exec i s := by
  obtain ⟨r, fetched, record⟩ := exists_fetchRecord_of_decode decoded
  have runs : fetch (.record d) s = .run i := by
    simp only [fetch, fetchStep, running, fetched, record, Bool.false_eq_true, if_false]
  rw [← runFetched_record, runs, runFetched]

theorem stepDir_of_decode_error {s : State} {d : Dir} {hs : HandshakeState} {e : DecodeError}
    (running : s.conn.disabled = false) (failed : decode (.record d hs) (s.unconsumed d) = .error e) :
    stepDir d s = .next (false, s) := by
  obtain rfl := eq_needMoreData_of_decode failed
  exact stepDir_of_needMoreData running (fetchRecord_of_needMoreData failed)

/-- A step with a record request first is a step of its direction, without the request (R130; log entry 5). -/
theorem step_of_record_request {s : State} {d : Dir} {rest : List Request} (requested : s.pending = .record d :: rest) :
    step s = stateOf (stepDir d { s with pending := rest }) := by
  rw [step_of_cons requested, runFetched_record]

/-- Settles O7: what a step of the direction does, and the same of a requested one, on the state without its request. -/
theorem stepRunsTheRecordAtTheCursor : Obligations.StepRunsTheRecordAtTheCursor := by
  intro s d
  refine ⟨fun i x running decoded => ⟨stepDir_of_decode running decoded, fun rest requested => ?record⟩,
    fun e running failed => ⟨stepDir_of_decode_error running failed, fun rest requested => ?partialRecord⟩,
    fun rest disabled requested => ?disabled⟩
  case record =>
    rw [step_of_record_request requested]
    exact stepDir_of_decode running (by rwa [peer_with_pending, unconsumed_with_pending])
  case partialRecord =>
    rw [step_of_record_request requested]
    exact congrArg stateOf (stepDir_of_decode_error (s := { s with pending := rest }) running (by rwa [unconsumed_with_pending]))
  case disabled =>
    rw [step_of_record_request requested]
    exact congrArg stateOf (stepDir_of_disabled (s := { s with pending := rest }) disabled)

end Sys2Proof.Machine

/-! ### Messages that are skipped (R160, R164, R167, R168) -/
namespace Sys2Proof.Machine

theorem report_nil (s : State) : s.report [] = s := by
  rw [State.report, List.append_nil]

theorem report_emit (s : State) (e : Event) (es : List Event) : (s.emit e).report es = s.report (e :: es) := by
  simp only [State.report, State.emit, List.append_assoc, List.singleton_append]

@[simp] theorem avail_report (s : State) (es : List Event) (d : Dir) : (s.report es).avail d = s.avail d :=
  avail_with_response s _ d

theorem handshakeMessage_of_skipped {ty : Byte} (clientHello : ty ≠ 1) (serverHello : ty ≠ 2) (newSessionTicket : ty ≠ 4)
    (clientKeyExchange : ty ≠ 16) (d : Dir) (body : Bytes) (s : State) : handshakeMessage d ty body s = (.done, s) := by
  unfold handshakeMessage
  split
  case h_1 is => exact absurd (eq_ofNat_of_toNat_eq is) clientHello
  case h_2 is => exact absurd (eq_ofNat_of_toNat_eq is) serverHello
  case h_3 is => exact absurd (eq_ofNat_of_toNat_eq is) newSessionTicket
  case h_4 is => exact absurd (eq_ofNat_of_toNat_eq is) clientKeyExchange
  all_goals rfl

/-- One turn of the loop of R160, on a whole message at the head of the payload. -/
theorem handshakePlain_encodeMessage {d : Dir} {ty : Byte} {body : Bytes} {s t : State} (len : body.length < 16777216)
    (done : handshakeMessage d ty body s = (.done, t)) (rest : Bytes) :
    handshakePlain d (encodeMessage ty body ++ rest) s = handshakePlain d rest (t.emit (.hsMsg d ty body)) := by
  have frame : splitFrame 4 1 (encodeMessage ty body ++ rest) = .ok (ty :: encBe 3 body.length, body, rest) :=
    splitFrame_encBe (hdr := 4) (off := 1) (w := 3) (pre := [ty]) rest rfl rfl len
  have type : byteAt (ty :: encBe 3 body.length) 0 = ty := rfl
  have bytes : encodeMessage ty body ++ rest = ty :: (encBe 3 body.length ++ body ++ rest) := rfl
  rw [bytes] at frame ⊢
  rw [handshakePlain, List.length_cons, messagesLoop]
  simp only [frame, type, done]
  exact messagesLoop_fuel d _ _ rest _ (by rw [List.length_append]; exact Nat.le_add_left _ _) le_rfl

/-- Skipped messages at the head of a payload are reported in order, and the loop goes on after them (R160, R167, R168). -/
theorem handshakePlain_skipped (d : Dir) {ms : List (Byte × Bytes)} (skipped : SkippedMessages ms) (tail : Bytes) (s : State) :
    handshakePlain d (messagesBytes ms ++ tail) s =
      handshakePlain d tail (s.report (ms.map fun m => .hsMsg d m.1 m.2)) := by
  induction ms generalizing s with
  | nil => rw [List.map_nil, report_nil]; rfl
  | cons m ms ih =>
    obtain ⟨⟨clientHello, serverHello, newSessionTicket, clientKeyExchange, len⟩, later⟩ := List.forall_mem_cons.mp skipped
    have done := handshakeMessage_of_skipped clientHello serverHello newSessionTicket clientKeyExchange d m.2 s
    calc handshakePlain d (messagesBytes (m :: ms) ++ tail) s
      _ = handshakePlain d (encodeMessage m.1 m.2 ++ (messagesBytes ms ++ tail)) s := by
        rw [messagesBytes, List.flatMap_cons, List.append_assoc, ← messagesBytes]
      _ = handshakePlain d (messagesBytes ms ++ tail) (s.emit (.hsMsg d m.1 m.2)) := handshakePlain_encodeMessage len done _
      _ = handshakePlain d tail ((s.emit (.hsMsg d m.1 m.2)).report (ms.map fun m => .hsMsg d m.1 m.2)) := ih later _
      _ = handshakePlain d tail (s.report ((m :: ms).map fun m => .hsMsg d m.1 m.2)) := by
        rw [report_emit, List.map_cons]

/-- Settles O47: the loop reports the messages and ends with the payload. -/
theorem handshakeRecordOfSkippedMessages : Obligations.HandshakeRecordOfSkippedMessages := by
  intro d vmaj vmin ms s skipped ⟨running, buffered⟩
  have rule := handshakePlain_skipped d skipped [] s
  rw [List.append_nil] at rule
  exact runRecord_done running buffered rule (avail_report s _ d)

end Sys2Proof.Machine

/-! ### The records by themselves (R130, R132, R140, R145 to R147, R149) -/
namespace Sys2Proof.Machine

/-- A record that is not buffered is left for later (R130, R261). -/
theorem runRecord_of_short {d : Dir} {n : Nat} {s : State} (running : s.conn.disabled = false) (short : s.avail d < n)
    (rule : State → RuleResult × State) : stateOf (runRecord d n rule s) = .next s := by
  rw [runRecord, running, if_neg Bool.false_ne_true, if_pos short]
  rfl

/-- A buffered record whose rule raises disables the engine, with the codes of the error (R262, R263). -/
theorem runRecord_fatal_disabledBy {d : Dir} {n : Nat} {rule : State → RuleResult × State} {s t : State} {e : FatalError}
    (running : s.conn.disabled = false) (buffered : n ≤ s.avail d) (raises : rule s = (.fatal e, t)) :
    ∃ u, stateOf (runRecord d n rule s) = .next u ∧ DisabledBy t u d e.kind.code e.detail :=
  ⟨_, runRecord_fatal running buffered raises, disable_disabledBy t d e⟩

/-- Settles O29: all seven forms run as a record, which waits for its bytes before its rule. -/
theorem unbufferedRecordChangesNothing : Obligations.UnbufferedRecordChangesNothing := by
  rintro d ty vmaj vmin payload s i (rfl | rfl | rfl | rfl | rfl | rfl | rfl) running short <;>
    exact runRecord_of_short running short _

/-- Settles O28: the rule raises, once the record is buffered. -/
theorem illegalRecordDisables : Obligations.IllegalRecordDisables := by
  intro d ty vmaj vmin payload s _
  refine ⟨fun ⟨running, buffered⟩ => ?whole, fun running short => runRecord_of_short running short illegalRecord⟩
  case whole => exact runRecord_fatal_disabledBy (rule := illegalRecord) (e := .unknownContentType) running buffered rfl

/-- Settles O35: the rule reports the payload and is done. -/
theorem plainAlertIsReported : Obligations.PlainAlertIsReported := by
  intro d vmaj vmin payload s ⟨running, buffered⟩
  exact runRecord_done (rule := alertPlain d payload) running buffered rfl (avail_emit s _ d)

/-! #### ChangeCipherSpec -/

theorem changeCipherSpec_held {d : Dir} {s : State} (notReady : s.conn.ready = false)
    (other : (s.peer d.other).hsState.reachedCcs = false) :
    changeCipherSpec d s = (.wait, s.setHs d (hsMax (s.peer d).hsState .changeCipherSpecSeen)) := by
  simp only [changeCipherSpec, notReady, other, Bool.false_eq_true, if_false]

theorem changeCipherSpec_without_keys {d : Dir} {s : State} (notReady : s.conn.ready = false)
    (other : (s.peer d.other).hsState.reachedCcs = true) :
    changeCipherSpec d s = (.fatal .ccsWithoutKeys, s.setHs d (hsMax (s.peer d).hsState .changeCipherSpecSeen)) := by
  simp only [changeCipherSpec, notReady, other, Bool.false_eq_true, if_false, if_true]

/-- With the keys there, the rule only moves the handshake state and reports (R145, R140). -/
theorem changeCipherSpec_with_keys {s : State} (ready : s.conn.ready = true) (keys : s.conn.keyScheduleDone = true) (d : Dir) :
    changeCipherSpec d s = (.done, (s.setHs d (hsMax (s.peer d).hsState .changeCipherSpecSeen)).emit (.ccs d)) := by
  simp only [changeCipherSpec, ready, ccsReady, conn_setHs, keys, if_true]

theorem response_emit (s : State) (e : Event) :
    (s.emit e).response = { s.response with events := s.response.events ++ [e] } := rfl

theorem hsMax_changeCipherSpecSeen (h : HandshakeState) :
    hsMax h .changeCipherSpecSeen = if h = .finished then .finished else .changeCipherSpecSeen := by
  cases h <;> rfl

/-- Settles O30: before readiness the rule moves the handshake state, and waits or raises by the other direction's. -/
theorem earlyCcsWaitsOrFails : Obligations.EarlyCcsWaitsOrFails := by
  intro d vmaj vmin payload s ⟨running, buffered⟩ notReady
  refine ⟨fun other => ?waits, fun other => ?fails⟩
  case waits => exact runRecord_wait running buffered (changeCipherSpec_held notReady other)
  case fails => exact runRecord_fatal_disabledBy running buffered (changeCipherSpec_without_keys notReady other)

/-- Settles O31: the rule moves the handshake state and reports, and the record is consumed. -/
theorem ccsAfterTheKeysIsConsumed : Obligations.CcsAfterTheKeysIsConsumed := by
  intro d vmaj vmin payload s ⟨running, buffered⟩ ready keys
  refine ⟨_, runRecord_done running buffered (changeCipherSpec_with_keys ready keys d) (by simp), ?_⟩
  simp [response_emit, hsMax_changeCipherSpecSeen]

/-! #### Application data -/

theorem applicationData_held {d : Dir} {s : State} (notReady : s.conn.ready = false)
    (other : (s.peer d.other).hsState.reachedCcs = false) (a b : Byte) (payload : Bytes) :
    applicationData d a b payload s = (.wait, s) := by
  simp only [applicationData, notReady, other, Bool.false_eq_true, if_false]

theorem applicationData_without_keys {d : Dir} {s : State} (notReady : s.conn.ready = false)
    (other : (s.peer d.other).hsState.reachedCcs = true) (a b : Byte) (payload : Bytes) :
    applicationData d a b payload s = (.fatal .appdataWithoutKeys, s) := by
  simp only [applicationData, notReady, other, Bool.false_eq_true, if_false, if_true]

theorem applicationData_before_keys {s : State} (ready : s.conn.ready = true) (noKeys : s.conn.keyScheduleDone = false) (d : Dir)
    (a b : Byte) (payload : Bytes) : applicationData d a b payload s = (.wait, s) := by
  simp only [applicationData, ready, noKeys, Bool.false_eq_true, if_false, if_true]

/-- Settles O36: the rule waits, or raises when the other direction is past its ChangeCipherSpec. -/
theorem appDataWaitsOrFailsBeforeTheKeys : Obligations.AppDataWaitsOrFailsBeforeTheKeys := by
  intro d vmaj vmin payload s ⟨running, buffered⟩
  refine ⟨fun notReady other => ?held, fun notReady other => ?fails, fun ready noKeys => ?noKeys⟩
  case held => exact runRecord_wait running buffered (applicationData_held notReady other vmaj vmin payload)
  case fails =>
    exact runRecord_fatal_disabledBy running buffered (applicationData_without_keys notReady other vmaj vmin payload)
  case noKeys => exact runRecord_wait running buffered (applicationData_before_keys ready noKeys d vmaj vmin payload)

end Sys2Proof.Machine

/-! ### Messages, extensions and list entries by themselves, on a running engine (R165 to R169, R262) -/
namespace Sys2Proof.Machine

section Running
variable {s t : State} {rule : State → RuleResult × State} (running : s.running)
include running

/-- A message whose rule is done is reported after its writes (R169). -/
theorem runMessage_done (done : rule s = (.done, t)) (d : Dir) (ty : Byte) (body : Bytes) :
    runMessage d ty body rule s = t.report [.hsMsg d ty body] := by
  rw [runMessage, running, if_neg Bool.false_ne_true, done]
  rfl

theorem runMessage_fatal {e : FatalError} (raises : rule s = (.fatal e, t)) (d : Dir) (ty : Byte) (body : Bytes) :
    runMessage d ty body rule s = t.disable d e := by
  rw [runMessage, running, if_neg Bool.false_ne_true, raises]

/-- A message whose rule raises disables the engine, with the codes of the error, charged to its direction (R262, R263). -/
theorem runMessage_fatal_disabledBy {e : FatalError} {d : Dir} {ty : Byte} {body : Bytes} (raises : rule s = (.fatal e, t)) :
    ∃ u, (Host.Outcome.next (runMessage d ty body rule s) : Host.Outcome State Fault Refusal) = .next u ∧
      DisabledBy t u d e.kind.code e.detail :=
  ⟨_, congrArg Host.Outcome.next (runMessage_fatal running raises d ty body), disable_disabledBy t d e⟩

theorem runHelloPart_done (done : rule s = (.done, t)) : runHelloPart rule s = t := by
  rw [runHelloPart, running, if_neg Bool.false_ne_true, done]

/-- An extension or a list entry whose rule raises disables the engine, charged to direction 0 (R165, R262). -/
theorem runHelloPart_fatal {e : FatalError} (raises : rule s = (.fatal e, t)) :
    runHelloPart rule s = t.disable .clientToServer e := by
  rw [runHelloPart, running, if_neg Bool.false_ne_true, raises]

end Running

/-! #### The checks before a body is read -/

theorem clientHello_wrong_direction (body : Bytes) (s : State) :
    clientHello .serverToClient body s = (.fatal .wrongDirection, s) := rfl

theorem serverHello_wrong_direction (body : Bytes) (s : State) :
    serverHello .clientToServer body s = (.fatal .wrongDirection, s) := rfl

theorem clientKeyExchange_wrong_direction (body : Bytes) (s : State) :
    clientKeyExchange .serverToClient body s = (.fatal .wrongDirection, s) := rfl

theorem newSessionTicket_wrong_direction (body : Bytes) (s : State) :
    newSessionTicket .clientToServer body s = (.fatal .wrongDirection, s) := rfl

theorem clientHello_duplicate {s : State} (seen : s.peer0.hsState ≠ .start) (body : Bytes) :
    clientHello .clientToServer body s = (.fatal .duplicateMessage, s) :=
  if_pos seen

theorem serverHello_duplicate {s : State} (seen : s.peer1.hsState ≠ .start) (body : Bytes) :
    serverHello .serverToClient body s = (.fatal .duplicateMessage, s) :=
  if_pos seen

theorem clientKeyExchange_duplicate {s : State} (recovered : s.conn.premasterSet = true) (body : Bytes) :
    clientKeyExchange .clientToServer body s = (.fatal .duplicateMessage, s) :=
  if_pos recovered

/-- Settles O49: the rule of each of the eight writes nothing and is done. -/
theorem skippedMessagesOnlyReport : Obligations.SkippedMessagesOnlyReport := by
  intro d body s running
  have skipped (ty : Byte) : (Host.Outcome.next (runMessage d ty body skipMessage s) : Host.Outcome State Fault Refusal) =
      .next (s.report [.hsMsg d ty body]) :=
    congrArg Host.Outcome.next (runMessage_done running rfl d ty body)
  exact ⟨skipped 0, skipped 11, skipped 12, skipped 13, skipped 14, skipped 15, skipped 20, skipped⟩

/-- Settles O56: the direction is checked first. -/
theorem wrongDirectionDisables : Obligations.WrongDirectionDisables := fun s body running =>
  ⟨runMessage_fatal_disabledBy running (clientHello_wrong_direction body s),
    runMessage_fatal_disabledBy running (clientKeyExchange_wrong_direction body s),
    runMessage_fatal_disabledBy running (serverHello_wrong_direction body s),
    runMessage_fatal_disabledBy running (newSessionTicket_wrong_direction body s)⟩

/-- Settles O57: the register that a first such message writes is checked before the body. -/
theorem duplicateMessageDisables : Obligations.DuplicateMessageDisables := fun _ body running =>
  ⟨fun seen => runMessage_fatal_disabledBy running (clientHello_duplicate seen body),
    fun seen => runMessage_fatal_disabledBy running (serverHello_duplicate seen body),
    fun recovered => runMessage_fatal_disabledBy running (clientKeyExchange_duplicate recovered body)⟩

/-! #### Extensions and list entries -/

theorem hostNameEntry_first {s : State} (first : s.work.found = false) (name : Bytes) :
    hostNameEntry name s = (.done, { s with work := { s.work with sni := name, found := true } }) := by
  rw [hostNameEntry, first, if_neg Bool.false_ne_true]

theorem hostNameEntry_later {s : State} (later : s.work.found = true) (name : Bytes) : hostNameEntry name s = (.done, s) :=
  if_pos later

/-- Settles O59: each rule is done, with the write of its item. -/
theorem extensionsAndEntriesWriteTheHelloVariables : Obligations.ExtensionsAndEntriesWriteTheHelloVariables := by
  intro s x running
  have leaves {rule : State → RuleResult × State} {t : State} (done : rule s = (.done, t)) :
      (Host.Outcome.next (runHelloPart rule s) : Host.Outcome State Fault Refusal) = .next t :=
    congrArg Host.Outcome.next (runHelloPart_done running done)
  exact ⟨leaves (rule := sessionTicketExt x) rfl, fun _ => leaves (rule := otherExt) rfl,
    fun first => leaves (hostNameEntry_first first x), fun later => leaves (hostNameEntry_later later x),
    fun _ => leaves (rule := otherNameEntry) rfl⟩

end Sys2Proof.Machine

/-! ### The loops, one item at a time (R160, R162, R163, R171, R183) -/
namespace Sys2Proof.Machine

/-- A frame with a header is more than nothing, and what follows it is shorter than the whole. -/
theorem cons_of_splitFrame {hdr off : Nat} {bs h body rest : Bytes} (header : 0 < hdr)
    (read : splitFrame hdr off bs = .ok (h, body, rest)) : ∃ x xs, bs = x :: xs ∧ rest.length ≤ xs.length := by
  obtain ⟨whole, headerLen, -⟩ := splitFrame_ok read
  have len : bs.length = hdr + body.length + rest.length := by
    rw [whole, List.length_append, List.length_append, headerLen]
  cases bs with
  | nil => rw [List.length_nil] at len; omega
  | cons x xs => rw [List.length_cons] at len; exact ⟨x, xs, rfl, by omega⟩

theorem splitFrame_truncated {hdr off : Nat} {bs : Bytes} (short : bs.length < hdr) :
    splitFrame hdr off bs = .error .truncatedHeader :=
  if_pos short

theorem splitFrame_overrun {hdr off : Nat} {bs : Bytes} (header : hdr ≤ bs.length)
    (short : bs.length < hdr + beNat ((bs.take hdr).drop off)) : splitFrame hdr off bs = .error .lengthOverrun := by
  rw [splitFrame, if_neg (by omega), if_pos (by omega)]

theorem exists_of_map_eq_ok {ε α β : Type} {x : Except ε α} {f : α → β} {b : β} (h : x.map f = .ok b) :
    ∃ a, x = .ok a ∧ f a = b := by
  cases x with
  | error e => cases h
  | ok a => exact ⟨a, rfl, Except.ok.inj h⟩

theorem eq_error_of_map_eq_error {ε α β : Type} {x : Except ε α} {f : α → β} {e : ε} (h : x.map f = .error e) :
    x = .error e := by
  cases x with
  | error e' => exact congrArg Except.error (Except.error.inj h)
  | ok a => cases h

/-! #### Messages -/

theorem handshakePlain_undecodable {d : Dir} {payload : Bytes} {e : DecodeError} (nonempty : payload ≠ [])
    (undecodable : splitFrame 4 1 payload = .error e) (s : State) :
    handshakePlain d payload s = (.fatal (messageError e), s) := by
  obtain ⟨x, xs, rfl⟩ := List.exists_cons_of_ne_nil nonempty
  simp only [handshakePlain, List.length_cons, messagesLoop, undecodable]

theorem handshakePlain_done {d : Dir} {payload h body rest : Bytes} {s t : State}
    (read : splitFrame 4 1 payload = .ok (h, body, rest)) (done : handshakeMessage d (byteAt h 0) body s = (.done, t)) :
    handshakePlain d payload s = handshakePlain d rest (t.report [.hsMsg d (byteAt h 0) body]) := by
  obtain ⟨x, xs, rfl, shorter⟩ := cons_of_splitFrame (by omega) read
  simp only [handshakePlain, List.length_cons, messagesLoop, read, done]
  exact messagesLoop_fuel d _ _ rest _ shorter le_rfl

theorem handshakePlain_fatal {d : Dir} {payload h body rest : Bytes} {s t : State} {e : FatalError}
    (read : splitFrame 4 1 payload = .ok (h, body, rest)) (raises : handshakeMessage d (byteAt h 0) body s = (.fatal e, t)) :
    handshakePlain d payload s = (.fatal e, t) := by
  obtain ⟨x, xs, rfl, -⟩ := cons_of_splitFrame (by omega) read
  simp only [handshakePlain, List.length_cons, messagesLoop, read, raises]

theorem runMessage_congr {d : Dir} {ty : Byte} {body : Bytes} {rule rule' : State → RuleResult × State} {s : State}
    (h : rule s = rule' s) : runMessage d ty body rule s = runMessage d ty body rule' s := by
  simp only [runMessage, h]

/-- The instruction a message decodes to is run by the rule that R164 chooses for its type. -/
theorem exec_messageInstr (d : Dir) (ty : Byte) (body : Bytes) (s : State) :
    exec (messageInstr d ty body) s = .next (runMessage d ty body (handshakeMessage d ty body) s) := by
  by_cases listed : ty ∈ listedHandshakeTypes
  · simp only [listedHandshakeTypes, List.mem_cons, List.not_mem_nil, or_false] at listed
    obtain rfl | rfl | rfl | rfl | rfl | rfl | rfl | rfl | rfl | rfl | rfl := listed
    all_goals rfl
  · have unlisted : listedHandshakeTypes.contains ty = false := by simpa using listed
    have skipped : skipMessage s = handshakeMessage d ty body s := by
      simp only [listedHandshakeTypes, List.mem_cons, not_or] at listed
      obtain ⟨-, clientHello, serverHello, newSessionTicket, -, -, -, -, -, clientKeyExchange, -⟩ := listed
      rw [handshakeMessage_of_skipped clientHello serverHello newSessionTicket clientKeyExchange]
      rfl
    rw [messageInstr_of_unlisted unlisted]
    exact congrArg Host.Outcome.next (runMessage_congr skipped)

theorem decodeMessage_eq_map (d : Dir) (bs : Bytes) :
    decodeMessage d bs = (splitFrame 4 1 bs).map fun r => (messageInstr d (byteAt r.1 0) r.2.1, r.2.2) := by
  cases read : splitFrame 4 1 bs <;> simp only [decodeMessage, read, Except.map]

/-- A message leaves a running engine running, or its rule raised (R164, R262). -/
theorem handshakeMessage_cases {s : State} (running : s.running) (d : Dir) (ty : Byte) (body : Bytes) :
    (∃ t, handshakeMessage d ty body s = (.done, t) ∧ t.running) ∨ ∃ e t, handshakeMessage d ty body s = (.fatal e, t) := by
  have frame := handshakeMessage_frame d ty body s
  have notHeld := handshakeMessage_ne_wait d ty body s
  cases answer : handshakeMessage d ty body s with
  | mk result t =>
    rw [answer] at frame notHeld
    cases result with
    | done => exact .inl ⟨t, rfl, frame.disabled.trans running⟩
    | wait => exact absurd rfl notHeld
    | fatal e => exact .inr ⟨e, t, rfl⟩

theorem not_running_disable (s : State) (d : Dir) (e : FatalError) : ¬ (s.disable d e).running := by
  rw [State.running, conn_disable]
  exact Bool.noConfusion

/-- Settles O9: one turn of the loop, by what the rule of the message at the head answers. -/
theorem handshakePayloadRunsItsMessages : Obligations.HandshakePayloadRunsItsMessages := by
  intro s d running
  refine ⟨rfl, fun payload e nonempty failed => ?undecodable, fun payload i rest t decoded ran => ?message⟩
  case undecodable =>
    have unread := eq_error_of_map_eq_error ((decodeMessage_eq_map d payload).symm.trans failed)
    exact handshakePlain_undecodable nonempty unread s
  case message =>
    obtain ⟨⟨h, body, rest⟩, read, made⟩ := exists_of_map_eq_ok ((decodeMessage_eq_map d payload).symm.trans decoded)
    cases made
    rw [exec_messageInstr] at ran
    cases ran
    obtain ⟨u, done, stillRunning⟩ | ⟨e, u, raises⟩ := handshakeMessage_cases running d (byteAt h 0) body
    · rw [runMessage_done running done]
      exact ⟨fun _ => handshakePlain_done read done, fun stopped => absurd stillRunning stopped⟩
    · rw [runMessage_fatal running raises]
      exact ⟨fun goesOn => absurd goesOn (not_running_disable u d e), fun _ => ⟨e, u, handshakePlain_fatal read raises, rfl⟩⟩

/-- Settles O48: the loop reports the skipped messages and raises on what follows them. -/
theorem handshakeFramingErrors : Obligations.HandshakeFramingErrors := by
  intro d vmaj vmin ms tail s skipped ⟨running, buffered⟩
  have raises {e : DecodeError} (nonempty : tail ≠ []) (undecodable : splitFrame 4 1 tail = .error e) :
      handshakePlain d (messagesBytes ms ++ tail) s =
        (.fatal (messageError e), s.report (ms.map fun m => .hsMsg d m.1 m.2)) :=
    (handshakePlain_skipped d skipped tail s).trans (handshakePlain_undecodable nonempty undecodable _)
  refine ⟨fun some short => ?truncated, fun ty n x bytes fits short => ?overrun⟩
  case truncated =>
    exact runRecord_fatal_disabledBy running buffered
      (raises (List.ne_nil_of_length_pos some) (splitFrame_truncated short))
  case overrun =>
    have len : tail.length = 4 + x.length := by
      rw [bytes, List.length_cons, List.length_append, Laws.length_encBe]; omega
    have lengthField : (tail.take 4).drop 1 = encBe 3 n := by
      rw [bytes, List.take_succ_cons, List.drop_succ_cons, List.drop_zero, List.take_left' (Laws.length_encBe 3 n)]
    have overruns : splitFrame 4 1 tail = .error .lengthOverrun := by
      refine splitFrame_overrun (by omega) ?_
      rw [lengthField, beNat_encBe (n := 3) fits]
      omega
    exact runRecord_fatal_disabledBy running buffered (raises (by rw [bytes]; exact List.cons_ne_nil _ _) overruns)

/-! #### Extensions -/

theorem extensionsLoop_undecodable {ext : Bytes} {e : DecodeError} (nonempty : ext ≠ [])
    (undecodable : splitFrame 4 2 ext = .error e) (s : State) :
    extensionsLoop ext.length ext s = (.fatal .chMalformed, s) := by
  obtain ⟨x, xs, rfl⟩ := List.exists_cons_of_ne_nil nonempty
  simp only [List.length_cons, extensionsLoop, undecodable]

theorem extensionsLoop_done {ext h data rest : Bytes} {s t : State} (read : splitFrame 4 2 ext = .ok (h, data, rest))
    (done : extensionByType (beNat (h.take 2)) data s = (.done, t)) :
    extensionsLoop ext.length ext s = extensionsLoop rest.length rest t := by
  obtain ⟨x, xs, rfl, shorter⟩ := cons_of_splitFrame (by omega) read
  simp only [List.length_cons, extensionsLoop, read, done]
  exact extensionsLoop_fuel _ _ rest t shorter le_rfl

theorem extensionsLoop_fatal {ext h data rest : Bytes} {s t : State} {e : FatalError}
    (read : splitFrame 4 2 ext = .ok (h, data, rest)) (raises : extensionByType (beNat (h.take 2)) data s = (.fatal e, t)) :
    extensionsLoop ext.length ext s = (.fatal e, t) := by
  obtain ⟨x, xs, rfl, -⟩ := cons_of_splitFrame (by omega) read
  simp only [List.length_cons, extensionsLoop, read, raises]

theorem extensionByType_other {ty : Nat} (serverName : ty ≠ 0) (sessionTicket : ty ≠ 35) (data : Bytes) (s : State) :
    extensionByType ty data s = (.done, s) := by
  unfold extensionByType
  split
  · exact absurd rfl serverName
  · exact absurd rfl sessionTicket
  · rfl

theorem runHelloPart_congr {rule rule' : State → RuleResult × State} {s : State} (h : rule s = rule' s) :
    runHelloPart rule s = runHelloPart rule' s := by
  simp only [runHelloPart, h]

/-- The instruction an extension decodes to is run by the rule that R171 chooses for its type. -/
theorem exec_extensionInstr (ty : Nat) (data : Bytes) (s : State) :
    exec (extensionInstr ty data) s = .next (runHelloPart (extensionByType ty data) s) := by
  unfold extensionInstr
  split
  case h_1 => rfl
  case h_2 => rfl
  case h_3 serverName sessionTicket =>
    exact congrArg Host.Outcome.next (runHelloPart_congr (extensionByType_other serverName sessionTicket data s).symm)

theorem decodeExtension_eq_map (bs : Bytes) :
    decodeExtension bs = (splitFrame 4 2 bs).map fun r => (extensionInstr (beNat (r.1.take 2)) r.2.1, r.2.2) := by
  cases read : splitFrame 4 2 bs <;> simp only [decodeExtension, read, Except.map]

/-- An extension leaves a running engine running, or is malformed (R171). -/
theorem extensionByType_cases {s : State} (running : s.running) (ty : Nat) (data : Bytes) :
    (∃ t, extensionByType ty data s = (.done, t) ∧ t.running) ∨ ∃ t, extensionByType ty data s = (.fatal .chMalformed, t) := by
  have frame := extensionByType_frame ty data s
  obtain done | malformed := extensionByType_done_or_malformed ty data s
  · exact .inl ⟨_, Prod.ext done rfl, frame.disabled.trans running⟩
  · exact .inr ⟨_, Prod.ext malformed rfl⟩

/-! #### Entries of a server_name list -/

theorem sniLoop_undecodable {list : Bytes} {e : DecodeError} (nonempty : list ≠ [])
    (undecodable : splitFrame 3 1 list = .error e) (s : State) : sniLoop list.length list s = (.fatal .chMalformed, s) := by
  obtain ⟨x, xs, rfl⟩ := List.exists_cons_of_ne_nil nonempty
  simp only [List.length_cons, sniLoop, undecodable]

theorem sniLoop_done {list h name rest : Bytes} {s t : State} (read : splitFrame 3 1 list = .ok (h, name, rest))
    (done : sniEntry (byteAt h 0) name s = (.done, t)) : sniLoop list.length list s = sniLoop rest.length rest t := by
  obtain ⟨x, xs, rfl, shorter⟩ := cons_of_splitFrame (by omega) read
  simp only [List.length_cons, sniLoop, read, done]
  exact sniLoop_fuel _ _ rest t shorter le_rfl

theorem sniEntry_other {ty : Byte} (hostName : ty ≠ 0) (name : Bytes) (s : State) : sniEntry ty name s = (.done, s) := by
  unfold sniEntry
  split
  case h_1 is => exact absurd (eq_ofNat_of_toNat_eq is) hostName
  case h_2 => rfl

/-- The instruction a list entry decodes to is run by the rule that R183 chooses for its type. -/
theorem exec_sniInstr (ty : Byte) (name : Bytes) (s : State) :
    exec (sniInstr ty name) s = .next (runHelloPart (sniEntry ty name) s) := by
  by_cases hostName : ty = 0
  · subst hostName
    rfl
  · rw [sniInstr_of_unlisted hostName]
    exact congrArg Host.Outcome.next (runHelloPart_congr (sniEntry_other hostName name s).symm)

theorem decodeSniEntry_eq_map (bs : Bytes) :
    decodeSniEntry bs = (splitFrame 3 1 bs).map fun r => (sniInstr (byteAt r.1 0) r.2.1, r.2.2) := by
  cases read : splitFrame 3 1 bs <;> simp only [decodeSniEntry, read, Except.map]

/-- Settles O10: one turn of each loop, by what the rule of the item at the head answers; an entry's rule never raises. -/
theorem helloLoopsRunTheirItems : Obligations.HelloLoopsRunTheirItems := by
  intro s running
  refine ⟨rfl, rfl, fun ext e nonempty failed => ?badExtension, fun list e nonempty failed => ?badEntry,
    fun ext i rest t decoded ran => ?extension, fun list i rest t decoded ran => ?entry⟩
  case badExtension =>
    have unread := eq_error_of_map_eq_error ((decodeExtension_eq_map ext).symm.trans failed)
    exact extensionsLoop_undecodable nonempty unread s
  case badEntry =>
    have unread := eq_error_of_map_eq_error ((decodeSniEntry_eq_map list).symm.trans failed)
    exact sniLoop_undecodable nonempty unread s
  case extension =>
    obtain ⟨⟨h, data, rest⟩, read, made⟩ := exists_of_map_eq_ok ((decodeExtension_eq_map ext).symm.trans decoded)
    cases made
    rw [exec_extensionInstr] at ran
    cases ran
    obtain ⟨u, done, stillRunning⟩ | ⟨u, raises⟩ := extensionByType_cases running (beNat (h.take 2)) data
    · rw [runHelloPart_done running done]
      exact ⟨fun _ => extensionsLoop_done read done, fun stopped => absurd stillRunning stopped⟩
    · rw [runHelloPart_fatal running raises]
      exact ⟨fun goesOn => absurd goesOn (not_running_disable u _ _), fun _ => ⟨u, extensionsLoop_fatal read raises, rfl⟩⟩
  case entry =>
    obtain ⟨⟨h, name, rest⟩, read, made⟩ := exists_of_map_eq_ok ((decodeSniEntry_eq_map list).symm.trans decoded)
    cases made
    have done : sniEntry (byteAt h 0) name s = (.done, (sniEntry (byteAt h 0) name s).2) :=
      Prod.ext (sniEntry_done _ _ _) rfl
    rw [exec_sniInstr, runHelloPart_done running done] at ran
    cases ran
    exact sniLoop_done read done

end Sys2Proof.Machine

/-! ### server_name lists (R183) -/
namespace Sys2Proof.Machine

theorem sniBytes_cons (n : Byte × Bytes) (ns : List (Byte × Bytes)) :
    sniBytes (n :: ns) = encodeSniEntry n.1 n.2 ++ sniBytes ns :=
  List.flatMap_cons

/-- One turn of the loop of R183, on a whole entry at the head of the list. -/
theorem sniLoop_encodeSniEntry {ty : Byte} {name : Bytes} {s t : State} (len : name.length < 65536)
    (done : sniEntry ty name s = (.done, t)) (rest : Bytes) :
    sniLoop (encodeSniEntry ty name ++ rest).length (encodeSniEntry ty name ++ rest) s = sniLoop rest.length rest t := by
  have read : splitFrame 3 1 (encodeSniEntry ty name ++ rest) = .ok (ty :: encBe 2 name.length, name, rest) :=
    splitFrame_encBe (hdr := 3) (off := 1) (w := 2) (pre := [ty]) rest rfl rfl len
  exact sniLoop_done read done

theorem sniEntry_first {s : State} (first : s.work.found = false) (name : Bytes) :
    sniEntry 0 name s = (.done, { s with work := { s.work with sni := name, found := true } }) :=
  hostNameEntry_first first name

theorem sniEntry_later {s : State} (later : s.work.found = true) (ty : Byte) (name : Bytes) :
    sniEntry ty name s = (.done, s) := by
  by_cases hostName : ty = 0
  · subst hostName
    exact hostNameEntry_later later name
  · exact sniEntry_other hostName name s

/-- After the first host name a list changes nothing (R183). -/
theorem sniLoop_later {ns : List (Byte × Bytes)} (lens : ∀ n ∈ ns, n.2.length < 65536) {s : State}
    (later : s.work.found = true) : sniLoop (sniBytes ns).length (sniBytes ns) s = (.done, s) := by
  induction ns with
  | nil => rfl
  | cons n ns ih =>
    obtain ⟨headLen, tailLens⟩ := List.forall_mem_cons.mp lens
    rw [sniBytes_cons, sniLoop_encodeSniEntry headLen (sniEntry_later later n.1 n.2)]
    exact ih tailLens

/-- The variables after a list, before whose first entry no host name was found (R183). -/
def workAfterList (ns : List (Byte × Bytes)) (w : Work) : Work :=
  { w with
    sni := ((ns.filter fun n => n.1 == 0).map (·.2)).headD w.sni
    found := ns.any fun n => n.1 == 0 }

theorem workAfterList_nil {w : Work} (first : w.found = false) : workAfterList [] w = w := by
  rw [workAfterList, List.any_nil, ← first]
  rfl

theorem workAfterList_hostName (name : Bytes) (ns : List (Byte × Bytes)) (w : Work) :
    workAfterList ((0, name) :: ns) w = { w with sni := name, found := true } := by
  simp [workAfterList]

theorem workAfterList_other {ty : Byte} (other : ty ≠ 0) (name : Bytes) (ns : List (Byte × Bytes)) (w : Work) :
    workAfterList ((ty, name) :: ns) w = workAfterList ns w := by
  have skipped : (ty == 0) = false := beq_false_of_ne other
  simp only [workAfterList, List.filter_cons, List.any_cons, skipped, Bool.false_eq_true, if_false, Bool.false_or]

/-- The first host name of a list is kept (R183). -/
theorem sniLoop_sniBytes {ns : List (Byte × Bytes)} (lens : ∀ n ∈ ns, n.2.length < 65536) {s : State}
    (first : s.work.found = false) :
    sniLoop (sniBytes ns).length (sniBytes ns) s = (.done, { s with work := workAfterList ns s.work }) := by
  induction ns with
  | nil => rw [workAfterList_nil first]; rfl
  | cons n ns ih =>
    obtain ⟨ty, name⟩ := n
    obtain ⟨headLen, tailLens⟩ := List.forall_mem_cons.mp lens
    rw [sniBytes_cons]
    by_cases hostName : ty = 0
    · subst hostName
      rw [sniLoop_encodeSniEntry headLen (sniEntry_first first name), sniLoop_later tailLens rfl, workAfterList_hostName]
    · rw [sniLoop_encodeSniEntry headLen (sniEntry_other hostName name s), ih tailLens, workAfterList_other hostName]

/-- A server_name payload is a list after its length, and bytes that are ignored (R183). -/
theorem serverNameExt_of_list {ns : List (Byte × Bytes)} (lens : ∀ n ∈ ns, n.2.length < 65536)
    (len : (sniBytes ns).length < 65536) (rest : Bytes) (s : State) :
    serverNameExt (encBe 2 (sniBytes ns).length ++ sniBytes ns ++ rest) s =
      (.done, { s with work := workAfterList ns s.work }) := by
  have read : splitFrame 2 0 (encBe 2 (sniBytes ns).length ++ sniBytes ns ++ rest) =
      .ok (encBe 2 (sniBytes ns).length, sniBytes ns, rest) :=
    splitFrame_encBe (hdr := 2) (off := 0) (w := 2) (pre := []) rest rfl rfl len
  obtain ⟨x, xs, bytes, -⟩ := cons_of_splitFrame (by omega) read
  rw [bytes] at read ⊢
  simp only [serverNameExt, read]
  exact sniLoop_sniBytes lens rfl

/-- Settles O60: the empty payload is done at once; a list leaves its first host name. -/
theorem serverNameKeepsTheFirstHostName : Obligations.ServerNameKeepsTheFirstHostName := by
  intro s running
  refine ⟨congrArg Host.Outcome.next (runHelloPart_done running rfl), fun ns rest lens len => ?_⟩
  exact congrArg Host.Outcome.next (runHelloPart_done running (serverNameExt_of_list lens len rest s))

end Sys2Proof.Machine

/-! ### ClientHello (R170, R171, R186, R189) -/
namespace Sys2Proof.Machine

/-- A ClientHello body whose three vectors are whole (R76); `tail` is what follows the compression list. -/
theorem parseClientHello_vectors {fixed sid suites methods : Bytes} (tail : Bytes) (fixedLen : fixed.length = 34)
    (sidLen : sid.length < 256) (suitesLen : suites.length < 65536) (methodsLen : methods.length < 256) :
    parseClientHello (fixed ++ (encBe 1 sid.length ++ sid) ++ (encBe 2 suites.length ++ suites) ++
        (encBe 1 methods.length ++ methods) ++ tail) =
      (parseExtensionsBlock tail).map fun ext =>
        { random := fixed.drop 2, sessionId := sid, compressionMethods := methods, ext := ext } := by
  simp only [List.append_assoc]
  simp only [parseClientHello_fixed _ fixedLen, needVector_append 1 _ _ sidLen, needVector_append 2 _ _ suitesLen,
    needVector_append 1 _ _ methodsLen, Option.bind_some]

theorem parseExtensionsBlock_vector {ext : Bytes} (len : ext.length < 65536) (rest : Bytes) :
    parseExtensionsBlock (encBe 2 ext.length ++ (ext ++ rest)) = some (some ext) := by
  have block := needVector_append 2 ext rest len
  simp only [encBe, List.cons_append, List.nil_append] at block ⊢
  rw [parseExtensionsBlock, block]
  rfl

section ClientHello
variable {s : State} (start : s.peer0.hsState = .start)
include start

theorem clientHello_malformed {body : Bytes} (unread : parseClientHello body = none) :
    clientHello .clientToServer body s = (.fatal .chMalformed, s) := by
  rw [clientHello, if_neg (not_not.mpr rfl), if_neg (not_not.mpr start), unread]

theorem clientHello_parsed {body : Bytes} {f : ClientHelloFields} (parsed : parseClientHello body = some f) :
    clientHello .clientToServer body s = clientHelloFields f s := by
  rw [clientHello, if_neg (not_not.mpr rfl), if_neg (not_not.mpr start), parsed]

end ClientHello

theorem clientHelloFields_done {f : ClientHelloFields} {s t : State}
    (extensions : extensionsLoop (f.ext.getD []).length (f.ext.getD []) (startWork s) = (.done, t)) :
    clientHelloFields f s = (.done, commitClientHello f t) := by
  rw [clientHelloFields, extensions]

theorem clientHelloFields_fatal {f : ClientHelloFields} {s t : State} {e : FatalError}
    (extensions : extensionsLoop (f.ext.getD []).length (f.ext.getD []) (startWork s) = (.fatal e, t)) :
    clientHelloFields f s = (.fatal e, t) := by
  rw [clientHelloFields, extensions]

theorem clientCompression_eq_headD (methods : Bytes) (old : Byte) : clientCompression methods old = methods.headD old := by
  cases methods <;> rfl

/-- Settles O50: without a block there are no extensions to run, and the fields are committed. -/
theorem clientHelloWithoutExtensions : Obligations.ClientHelloWithoutExtensions := by
  intro s ver random sid suites methods running start verLen randomLen sidLen suitesLen methodsLen body
  have parsed : parseClientHello body =
      some { random := random, sessionId := sid, compressionMethods := methods, ext := none } := by
    have parsed := parseClientHello_vectors (fixed := ver ++ random) [] (by rw [List.length_append]; omega) sidLen suitesLen
      methodsLen
    rwa [List.append_nil, List.drop_left' verLen] at parsed
  have done := (clientHello_parsed start parsed).trans (clientHelloFields_done (s := s) rfl)
  rw [← clientCompression_eq_headD]
  exact congrArg Host.Outcome.next (runMessage_done running done .clientToServer 1 body)

/-- One turn of the loop of R171, on a whole extension at the head. -/
theorem extensionsLoop_encodeExtension {ty : Nat} {data : Bytes} {s t : State} (type : ty < 65536) (len : data.length < 65536)
    (done : extensionByType ty data s = (.done, t)) (rest : Bytes) :
    extensionsLoop (encodeExtension ty data ++ rest).length (encodeExtension ty data ++ rest) s =
      extensionsLoop rest.length rest t := by
  have read := splitFrame_encBe (hdr := 4) (w := 2) (pre := encBe 2 ty) rest (Laws.length_encBe 2 _) rfl len
  rw [encodeExtension, ← List.append_assoc (encBe 2 ty)]
  refine extensionsLoop_done read ?_
  rw [List.take_left' (Laws.length_encBe 2 ty), beNat_encBe (n := 2) type]
  exact done

/-- The server_name payload of one host name (R78, R183). -/
def oneHostName (name : Bytes) : Bytes :=
  encBe 2 (3 + name.length) ++ (0x00 :: (encBe 2 name.length ++ name))

theorem length_oneHostName (name : Bytes) : (oneHostName name).length = 5 + name.length := by
  simp only [oneHostName, List.length_append, List.length_cons, Laws.length_encBe]; omega

theorem serverNameExt_oneHostName {name : Bytes} (len : 3 + name.length < 65536) (s : State) :
    serverNameExt (oneHostName name) s = (.done, { s with work := { s.work with sni := name, found := true } }) := by
  have list : sniBytes [(0, name)] = 0x00 :: (encBe 2 name.length ++ name) := List.flatMap_singleton _ _
  have listLen : (sniBytes [(0, name)]).length = 3 + name.length := by
    rw [list]; exact Laws.length_encodeSniEntry 0 name
  have done := serverNameExt_of_list (ns := [(0, name)])
    (List.forall_mem_singleton.mpr (show name.length < 65536 by omega)) (by omega) [] s
  rwa [List.append_nil, listLen, list, workAfterList_hostName] at done

/-- The extensions of a ClientHello with an unknown extension, a host name and a ticket (R171, R183, R184, R185). -/
def threeExtensions (ty : BitVec 16) (other name ticket : Bytes) : Bytes :=
  encodeExtension ty.toNat other ++ encodeExtension 0 (oneHostName name) ++ encodeExtension 35 ticket

theorem length_threeExtensions (ty : BitVec 16) (other name ticket : Bytes) :
    (threeExtensions ty other name ticket).length = 17 + other.length + name.length + ticket.length := by
  simp only [threeExtensions, List.length_append, Laws.length_encodeExtension, length_oneHostName]; omega

theorem extensionsLoop_threeExtensions {ty : BitVec 16} {other name ticket : Bytes} (serverName : ty ≠ 0)
    (sessionTicket : ty ≠ 35) (len : other.length + name.length + ticket.length < 65000) (s : State) :
    extensionsLoop (threeExtensions ty other name ticket).length (threeExtensions ty other name ticket) s =
      (.done, { s with work := { sni := name, ticket := ticket, found := true } }) := by
  have nameLen : (oneHostName name).length < 65536 := by rw [length_oneHostName]; omega
  have skipped : extensionByType ty.toNat other s = (.done, s) :=
    extensionByType_other (fun is => serverName (eq_ofNat_of_toNat_eq is)) (fun is => sessionTicket (eq_ofNat_of_toNat_eq is))
      other s
  have order : threeExtensions ty other name ticket =
      encodeExtension ty.toNat other ++ (encodeExtension 0 (oneHostName name) ++ (encodeExtension 35 ticket ++ [])) := by
    rw [threeExtensions, List.append_nil, ← List.append_assoc]
  rw [order, extensionsLoop_encodeExtension ty.isLt (by omega) skipped,
    extensionsLoop_encodeExtension (ty := 0) (by omega) nameLen (serverNameExt_oneHostName (by omega) s),
    extensionsLoop_encodeExtension (ty := 35) (by omega) (by omega) rfl]
  rfl

/-- Settles O51: the block is read whole, its extensions run in order, and the fields are committed with what they leave. -/
theorem clientHelloWithServerNameAndTicket : Obligations.ClientHelloWithServerNameAndTicket := by
  intro s ver random sid suites methods name ticket other rest ty running start verLen randomLen sidLen suitesLen methodsLen
    serverName sessionTicket len ext body
  have extLen : ext.length < 65536 := by
    rw [show ext.length = _ from length_threeExtensions ty other name ticket]; omega
  have parsed : parseClientHello body =
      some { random := random, sessionId := sid, compressionMethods := methods, ext := some ext } := by
    have parsed := parseClientHello_vectors (fixed := ver ++ random) (encBe 2 ext.length ++ (ext ++ rest))
      (by rw [List.length_append]; omega) sidLen suitesLen methodsLen
    rwa [parseExtensionsBlock_vector extLen, List.drop_left' verLen, ← List.append_assoc (encBe 2 ext.length),
      ← List.append_assoc _ _ rest] at parsed
  have loop := extensionsLoop_threeExtensions serverName sessionTicket len (startWork s)
  have done := (clientHello_parsed start parsed).trans (clientHelloFields_done loop)
  rw [← clientCompression_eq_headD]
  exact congrArg Host.Outcome.next (runMessage_done running done .clientToServer 1 body)

end Sys2Proof.Machine

/-! ### ServerHello (R172, R173) -/
namespace Sys2Proof.Machine

/-- A ServerHello body whose fields are whole (R80); `rest` is what follows the compression byte. -/
theorem parseServerHello_fields (ver suite : BitVec 16) {random sid : Bytes} (cm : Byte) (rest : Bytes)
    (randomLen : random.length = 32) (sidLen : sid.length < 256) :
    parseServerHello (encBe 2 ver.toNat ++ random ++ (encBe 1 sid.length ++ sid) ++ encBe 2 suite.toNat ++ [cm] ++ rest) =
      some { version := ver, random := random, sessionId := sid, suite := suite, compression := cm } := by
  have word (v : BitVec 16) : BitVec.ofNat 16 (beNat (encBe 2 v.toNat)) = v := by
    rw [beNat_encBe (n := 2) v.isLt, BitVec.ofNat_toNat, BitVec.setWidth_eq]
  simp only [List.append_assoc, parseServerHello, Option.bind_eq_bind, need_append _ (Laws.length_encBe 2 _),
    need_append _ randomLen, needVector_append 1 _ _ sidLen, need_append rest (List.length_singleton (a := cm)),
    Option.bind_some, word]
  rfl

section ServerHello
variable {s : State} (start : s.peer1.hsState = .start)
include start

theorem serverHello_malformed {body : Bytes} (unread : parseServerHello body = none) :
    serverHello .serverToClient body s = (.fatal .shMalformed, s) := by
  rw [serverHello, if_neg (not_not.mpr rfl), if_neg (not_not.mpr start), unread]

theorem serverHello_accepted {body : Bytes} {f : ServerHelloFields} {l : LoadedSuite} (parsed : parseServerHello body = some f)
    (found : lookupSuite f.suite s.params.suiteTable = .ok l) :
    serverHello .serverToClient body s = (.done, acceptServerHello l (populateServerHello f s)) := by
  rw [serverHello, if_neg (not_not.mpr rfl), if_neg (not_not.mpr start), parsed]
  simp only [found]

theorem serverHello_rejected {body : Bytes} {f : ServerHelloFields} {e : FatalError} (parsed : parseServerHello body = some f)
    (refused : lookupSuite f.suite s.params.suiteTable = .error e) :
    serverHello .serverToClient body s = (.fatal e, populateServerHello f s) := by
  rw [serverHello, if_neg (not_not.mpr rfl), if_neg (not_not.mpr start), parsed]
  simp only [refused]

end ServerHello

/-! #### The suite table -/

section SuiteTable
variable {cs : BitVec 16} {table : List (BitVec 16 × CipherSuiteParams)}

theorem suiteRow_of_notMem (absent : ∀ p, (cs, p) ∉ table) : suiteRow cs table = none := by
  have notFound : table.find? (fun r => r.1 == cs) = none := by
    rw [List.find?_eq_none]
    rintro ⟨id, p⟩ row is
    exact absent p (eq_of_beq is ▸ row)
  rw [suiteRow, notFound, Option.map_none]

/-- In a table that lists each id once, the row that stands there is the one that is found (R8). -/
theorem suiteRow_of_mem {p : CipherSuiteParams} (nodup : (table.map (·.1)).Nodup) (row : (cs, p) ∈ table) :
    suiteRow cs table = some p := by
  have found : (table.find? fun r => r.1 == cs).isSome = true := List.find?_isSome.mpr ⟨(cs, p), row, beq_self_eq_true cs⟩
  obtain ⟨⟨id, q⟩, first⟩ := Option.isSome_iff_exists.mp found
  have same := List.find?_some first
  have once := List.inj_on_of_nodup_map nodup (List.mem_of_find?_eq_some first) row (eq_of_beq same)
  rw [suiteRow, first, once]
  rfl

theorem lookupSuite_unknown (absent : ∀ p, (cs, p) ∉ table) : lookupSuite cs table = .error .unknownSuite := by
  rw [lookupSuite, suiteRow_of_notMem absent]

theorem lookupSuite_rsa {p : CipherSuiteParams} (nodup : (table.map (·.1)).Nodup) (row : (cs, p) ∈ table)
    (rsa : p.keyExchangeIsRsa = true) : lookupSuite cs table = .ok { id := cs, suite := p } := by
  rw [lookupSuite, suiteRow_of_mem nodup row]
  exact if_pos rsa

theorem lookupSuite_nonRsa {p : CipherSuiteParams} (nodup : (table.map (·.1)).Nodup) (row : (cs, p) ∈ table)
    (nonRsa : p.keyExchangeIsRsa = false) : lookupSuite cs table = .error .nonRsaSuite := by
  rw [lookupSuite, suiteRow_of_mem nodup row]
  exact if_neg (Bool.eq_false_iff.mp nonRsa)

end SuiteTable

/-- Settles O52: the fields are read, the suite is found, and both writes are made. -/
theorem serverHelloIsAccepted : Obligations.ServerHelloIsAccepted := by
  intro s ver suite random sid rest cm p running start randomLen sidLen nodup row rsa body
  have parsed := parseServerHello_fields ver suite cm rest randomLen sidLen
  have done := serverHello_accepted start parsed (lookupSuite_rsa nodup row rsa)
  exact congrArg Host.Outcome.next (runMessage_done running done .serverToClient 2 body)

/-- Settles O53: the fields are written before the suite is looked up. -/
theorem serverHelloIsRejected : Obligations.ServerHelloIsRejected := by
  intro s ver suite random sid rest cm running start randomLen sidLen nodup body parsedState
  have parsed := parseServerHello_fields ver suite cm rest randomLen sidLen
  refine ⟨fun absent => ?unknown, fun p row nonRsa => ?nonRsa⟩
  case unknown =>
    exact runMessage_fatal_disabledBy running (serverHello_rejected start parsed (lookupSuite_unknown absent))
  case nonRsa =>
    exact runMessage_fatal_disabledBy running (serverHello_rejected start parsed (lookupSuite_nonRsa nodup row nonRsa))

end Sys2Proof.Machine

/-! ### ClientKeyExchange and NewSessionTicket (R174, R175, R200) -/
namespace Sys2Proof.Machine

theorem parseClientKeyExchange_vector {enc : Bytes} (len : enc.length < 65536) (rest : Bytes) :
    parseClientKeyExchange (encBe 2 enc.length ++ enc ++ rest) = some enc := by
  rw [parseClientKeyExchange, List.append_assoc, needVector_append 2 enc rest len]
  rfl

theorem parseNewSessionTicket_vector {hint ticket : Bytes} (hintLen : hint.length = 4) (len : ticket.length < 65536)
    (rest : Bytes) : parseNewSessionTicket (hint ++ (encBe 2 ticket.length ++ ticket) ++ rest) = some ticket := by
  simp only [List.append_assoc, parseNewSessionTicket, Option.bind_eq_bind, need_append _ hintLen, Option.bind_some,
    needVector_append 2 ticket rest len]
  rfl

section ClientKeyExchange
variable {s : State} (unset : s.conn.premasterSet = false)
include unset

theorem clientKeyExchange_malformed {body : Bytes} (unread : parseClientKeyExchange body = none) :
    clientKeyExchange .clientToServer body s = (.fatal .ckeMalformed, s) := by
  rw [clientKeyExchange, if_neg (not_not.mpr rfl), unset, if_neg Bool.false_ne_true, unread]

theorem clientKeyExchange_parsed {body enc : Bytes} (parsed : parseClientKeyExchange body = some enc) :
    clientKeyExchange .clientToServer body s =
      premasterRecover enc { s with conn := { s.conn with premasterSecret := enc } } := by
  rw [clientKeyExchange, if_neg (not_not.mpr rfl), unset, if_neg Bool.false_ne_true, parsed]

end ClientKeyExchange

theorem premasterRecover_failed {enc : Bytes} {s : State} (failed : Config.rsaDecrypt s.params.rsaKey enc = none) :
    premasterRecover enc s = (.fatal .rsaFail, s) := by
  rw [premasterRecover, failed]

theorem premasterRecover_badLength {enc pm : Bytes} {s : State} (decrypted : Config.rsaDecrypt s.params.rsaKey enc = some pm)
    (len : pm.length ≠ 48) : premasterRecover enc s = (.fatal .badPremasterLength, s) := by
  rw [premasterRecover, decrypted]
  exact if_neg len

theorem premasterRecover_done {enc pm : Bytes} {s : State} (decrypted : Config.rsaDecrypt s.params.rsaKey enc = some pm)
    (len : pm.length = 48) :
    premasterRecover enc s = (.done, { s with conn := { s.conn with premasterSecret := pm, premasterSet := true } }) := by
  rw [premasterRecover, decrypted]
  exact if_pos len

/-- Settles O54: the encrypted bytes are in the register when the primitive answers, and each answer has its outcome. -/
theorem clientKeyExchangeRecoversThePremaster : Obligations.ClientKeyExchangeRecoversThePremaster := by
  intro s enc rest running unset len body raw
  have parsed := clientKeyExchange_parsed unset (parseClientKeyExchange_vector len rest)
  cases answer : Config.rsaDecrypt s.params.rsaKey enc with
  | none => exact runMessage_fatal_disabledBy running (parsed.trans (premasterRecover_failed answer))
  | some pm =>
    by_cases pmLen : pm.length = 48
    · refine ⟨_, congrArg Host.Outcome.next
        (runMessage_done running (parsed.trans (premasterRecover_done answer pmLen)) .clientToServer 16 body), ?_⟩
      simp only [if_pos pmLen]
    · simp only [if_neg pmLen]
      exact runMessage_fatal_disabledBy running (parsed.trans (premasterRecover_badLength answer pmLen))

theorem newSessionTicket_malformed {body : Bytes} (unread : parseNewSessionTicket body = none) (s : State) :
    newSessionTicket .serverToClient body s = (.fatal .nstMalformed, s) := by
  rw [newSessionTicket, if_neg (not_not.mpr rfl), unread]

theorem newSessionTicket_done {body ticket : Bytes} (parsed : parseNewSessionTicket body = some ticket) (s : State) :
    newSessionTicket .serverToClient body s = (.done, { s with conn := { s.conn with serverTicket := ticket } }) := by
  rw [newSessionTicket, if_neg (not_not.mpr rfl), parsed]

/-- Settles O55: the ticket is read and written, whatever was there. -/
theorem newSessionTicketIsKept : Obligations.NewSessionTicketIsKept := by
  intro s hint ticket rest running hintLen len body
  have done := newSessionTicket_done (parseNewSessionTicket_vector hintLen len rest) s
  exact congrArg Host.Outcome.next (runMessage_done running done .serverToClient 4 body)

end Sys2Proof.Machine

/-! ### Bodies that end before their fields do (R12, R170, R171, R172, R174, R175, R183) -/
namespace Sys2Proof.Machine

/-! #### How long a body is whose fields are whole -/

theorem need_eq_some {k : Nat} {bs : Bytes} {r : Bytes × Bytes} (h : need k bs = some r) :
    k ≤ bs.length ∧ r.2 = bs.drop k ∧ r.1 = bs.take k := by
  unfold need at h
  split at h
  · cases h
    exact ⟨‹_›, rfl, rfl⟩
  · cases h

/-- A vector that is read takes its length field and as many bytes as that says (R92). -/
theorem length_of_needVector {w : Nat} {bs : Bytes} {r : Bytes × Bytes} (h : needVector w bs = some r) :
    bs.length = w + beNat (bs.take w) + r.2.length := by
  obtain ⟨field, readField, readVector⟩ := Option.bind_eq_some_iff.mp h
  obtain ⟨fieldLen, afterField, fieldBytes⟩ := need_eq_some readField
  obtain ⟨vectorLen, afterVector, -⟩ := need_eq_some readVector
  rw [afterField, fieldBytes, List.length_drop] at vectorLen
  rw [afterVector, afterField, fieldBytes, List.length_drop, List.length_drop]
  omega

theorem beNat_take_one (bs : Bytes) : beNat (bs.take 1) = (byteAt bs 0).toNat := by
  cases bs with
  | nil => rfl
  | cons b bs => rw [List.take_succ_cons, List.take_zero, beNat_cons]; simp [byteAt]

theorem le_length_of_parseClientHello {body : Bytes} {f : ClientHelloFields} (h : parseClientHello body = some f) :
    38 ≤ body.length := by
  simp only [parseClientHello, Option.bind_eq_bind, Option.bind_eq_some_iff] at h
  obtain ⟨ver, readVer, random, readRandom, sid, readSid, suites, readSuites, methods, readMethods, -⟩ := h
  obtain ⟨verLen, afterVer, -⟩ := need_eq_some readVer
  obtain ⟨randomLen, afterRandom, -⟩ := need_eq_some readRandom
  have sidLen := length_of_needVector readSid
  have suitesLen := length_of_needVector readSuites
  have methodsLen := length_of_needVector readMethods
  rw [afterRandom, afterVer, List.length_drop, List.length_drop] at sidLen
  omega

theorem le_length_of_parseServerHello {body : Bytes} {f : ServerHelloFields} (h : parseServerHello body = some f) :
    38 + (byteAt body 34).toNat ≤ body.length := by
  simp only [parseServerHello, Option.bind_eq_bind, Option.bind_eq_some_iff] at h
  obtain ⟨ver, readVer, random, readRandom, sid, readSid, suite, readSuite, cm, readCm, -⟩ := h
  obtain ⟨verLen, afterVer, -⟩ := need_eq_some readVer
  obtain ⟨randomLen, afterRandom, -⟩ := need_eq_some readRandom
  have sidLen := length_of_needVector readSid
  obtain ⟨suiteLen, afterSuite, -⟩ := need_eq_some readSuite
  obtain ⟨cmLen, -, -⟩ := need_eq_some readCm
  have sidByte : byteAt (body.drop 34) 0 = byteAt body 34 := by simp [byteAt]
  rw [afterRandom, afterVer, List.drop_drop, List.length_drop, beNat_take_one, sidByte] at sidLen
  rw [afterSuite, List.length_drop] at cmLen
  omega

theorem le_length_of_parseNewSessionTicket {body ticket : Bytes} (h : parseNewSessionTicket body = some ticket) :
    6 + beNat ((body.drop 4).take 2) ≤ body.length := by
  simp only [parseNewSessionTicket, Option.bind_eq_bind, Option.bind_eq_some_iff] at h
  obtain ⟨hint, readHint, ticket, readTicket, -⟩ := h
  obtain ⟨hintLen, afterHint, -⟩ := need_eq_some readHint
  have ticketLen := length_of_needVector readTicket
  rw [afterHint, List.length_drop] at ticketLen
  omega

theorem eq_none_of_length_lt {α : Type} {parsed : Option α} {k n : Nat} (enough : ∀ f, parsed = some f → k ≤ n)
    (short : n < k) : parsed = none :=
  Option.eq_none_iff_forall_ne_some.mpr fun f h => absurd (enough f h) (by omega)

/-! #### A ClientHello body that ends in one of its vectors -/

section ClientHelloVectors
variable {fixed sid suites tail : Bytes} (fixedLen : fixed.length = 34) (sidLen : sid.length < 256)
  (suitesLen : suites.length < 65536)
include fixedLen

theorem parseClientHello_short_sessionId (short : tail.length < 1 + (byteAt tail 0).toNat) :
    parseClientHello (fixed ++ tail) = none := by
  rw [parseClientHello_fixed tail fixedLen, needVector_eq_none (by rwa [beNat_take_one])]
  rfl

include sidLen

theorem parseClientHello_short_suites (short : tail.length < 2 + beNat (tail.take 2)) :
    parseClientHello (fixed ++ (encBe 1 sid.length ++ sid) ++ tail) = none := by
  simp only [List.append_assoc, parseClientHello_fixed _ fixedLen, needVector_append 1 _ _ sidLen, Option.bind_some,
    needVector_eq_none short, Option.bind_none]

include suitesLen

theorem parseClientHello_short_methods (short : tail.length < 1 + (byteAt tail 0).toNat) :
    parseClientHello (fixed ++ (encBe 1 sid.length ++ sid) ++ (encBe 2 suites.length ++ suites) ++ tail) = none := by
  rw [← beNat_take_one] at short
  simp only [List.append_assoc, parseClientHello_fixed _ fixedLen, needVector_append 1 _ _ sidLen,
    needVector_append 2 _ _ suitesLen, Option.bind_some, needVector_eq_none short, Option.bind_none]

end ClientHelloVectors

/-- After the compression list, one byte is malformed, and so is a block that overruns (R170). -/
theorem parseExtensionsBlock_short {tail : Bytes}
    (short : tail.length = 1 ∨ (2 ≤ tail.length ∧ tail.length < 2 + beNat (tail.take 2))) :
    parseExtensionsBlock tail = none := by
  match tail, short with
  | [], .inl one => exact absurd one (by decide)
  | [], .inr ⟨two, _⟩ => exact absurd two (by decide)
  | [_], _ => rfl
  | _ :: _ :: _, .inl one => simp at one
  | x :: y :: bs, .inr ⟨_, overruns⟩ => rw [parseExtensionsBlock, needVector_eq_none overruns]; rfl

/-- A server_name payload that ends before its list does is malformed (R183). -/
theorem serverNameExt_short {data : Bytes}
    (short : data.length = 1 ∨ (2 ≤ data.length ∧ data.length < 2 + beNat (data.take 2))) (s : State) :
    serverNameExt data s = (.fatal .chMalformed, s) := by
  have unread : ∃ e, splitFrame 2 0 data = .error e := by
    obtain one | ⟨header, overruns⟩ := short
    · exact ⟨_, splitFrame_truncated (by omega)⟩
    · exact ⟨_, splitFrame_overrun header (by rwa [List.drop_zero])⟩
  obtain ⟨e, unread⟩ := unread
  obtain ⟨x, xs, rfl⟩ := List.exists_cons_of_length_pos (l := data) (by omega)
  simp only [serverNameExt, unread]

/-- Settles O58: each parser is left without a field, so each rule raises before it writes; a block that is whole is taken
apart first, and the loop raises on its first extension. -/
theorem shortBodiesAreMalformed : Obligations.ShortBodiesAreMalformed := by
  intro s running
  refine ⟨fun start body short => ?fixedFields,
    fun start fixed sid suites methods tail fixedLen sidLen suitesLen methodsLen => ?vectors,
    fun start fixed sid suites methods ext rest e fixedLen sidLen suitesLen methodsLen nonempty extLen failed => ?extension,
    fun body => ⟨fun start short => ?serverHello, fun unset short => ?clientKeyExchange, fun short => ?newSessionTicket,
      fun short => ?serverName⟩⟩
  case fixedFields =>
    have unread := eq_none_of_length_lt (fun _ => le_length_of_parseClientHello) short
    exact runMessage_fatal_disabledBy running (clientHello_malformed start unread)
  case vectors =>
    intro toSuites toMethods toExtensions body ends
    have unread : parseClientHello body = none := by
      obtain ⟨rfl, short⟩ | ⟨rfl, short⟩ | ⟨rfl, short⟩ | ⟨rfl, short⟩ := ends
      · exact parseClientHello_short_sessionId fixedLen short
      · exact parseClientHello_short_suites fixedLen sidLen short
      · exact parseClientHello_short_methods fixedLen sidLen suitesLen short
      · exact (parseClientHello_vectors tail fixedLen sidLen suitesLen methodsLen).trans
          (by rw [parseExtensionsBlock_short short, Option.map_none])
    exact runMessage_fatal_disabledBy running (clientHello_malformed start unread)
  case extension =>
    have parsed := parseClientHello_vectors (encBe 2 ext.length ++ (ext ++ rest)) fixedLen sidLen suitesLen methodsLen
    rw [parseExtensionsBlock_vector extLen, ← List.append_assoc (encBe 2 ext.length), ← List.append_assoc _ _ rest] at parsed
    have unread := eq_error_of_map_eq_error ((decodeExtension_eq_map ext).symm.trans failed)
    have loop := extensionsLoop_undecodable nonempty unread (startWork s)
    exact runMessage_fatal_disabledBy running ((clientHello_parsed start parsed).trans (clientHelloFields_fatal loop))
  case serverHello =>
    have unread := eq_none_of_length_lt (fun _ => le_length_of_parseServerHello) short
    exact runMessage_fatal_disabledBy running (serverHello_malformed start unread)
  case clientKeyExchange =>
    have unread : parseClientKeyExchange body = none := by rw [parseClientKeyExchange, needVector_eq_none short]; rfl
    exact runMessage_fatal_disabledBy running (clientKeyExchange_malformed unset unread)
  case newSessionTicket =>
    have unread := eq_none_of_length_lt (fun _ => le_length_of_parseNewSessionTicket) short
    exact runMessage_fatal_disabledBy running (newSessionTicket_malformed unread s)
  case serverName =>
    exact ⟨_, congrArg Host.Outcome.next (runHelloPart_fatal running (serverNameExt_short short s)),
      disable_disabledBy s .clientToServer .chMalformed⟩

end Sys2Proof.Machine

/-! ### The expansions, round by round (R207, R213, R214) -/
namespace Sys2Proof.Machine

/-- The rounds after enough of them do not show in the first `n` bytes. -/
theorem take_flatMap_range_add {f : Nat → Bytes} {len n k : Nat} (length_f : ∀ i, (f i).length = len) (enough : n ≤ len * k)
    (more : Nat) : ((List.range (k + more)).flatMap f).take n = ((List.range k).flatMap f).take n := by
  have reaches : n ≤ ((List.range k).flatMap f).length := by
    simpa [List.length_flatMap, length_f, Nat.mul_comm] using enough
  rw [List.range_add, List.flatMap_append, List.take_append_of_le_length reaches]

/-- Any two numbers of rounds that are enough give the same first `n` bytes. -/
theorem take_flatMap_range_eq {f : Nat → Bytes} {len n k m : Nat} (length_f : ∀ i, (f i).length = len) (enough : n ≤ len * k)
    (enough' : n ≤ len * m) : ((List.range k).flatMap f).take n = ((List.range m).flatMap f).take n := by
  rw [← take_flatMap_range_add length_f enough m, Nat.add_comm, take_flatMap_range_add length_f enough' k]

/-- The letter of round `i`, counted from 0, is `0x41 + i` (R214). -/
theorem ssl3Round_succ (secret seed : Bytes) (i : Nat) :
    ssl3Round secret seed (i + 1) =
      hash .md5 (secret ++ hash .sha1 (List.replicate (i + 1) (BitVec.ofNat 8 (0x41 + i)) ++ secret ++ seed)) := by
  have letter : 0x40 + (i + 1) = 0x41 + i := by omega
  rw [ssl3Round, repeatByte, letter]

/-- Settles O38: the `(n + 15) / 16` rounds of the definition are enough, and so are the rounds given. -/
theorem ssl3ExpandIsItsRounds : Obligations.Ssl3ExpandIsItsRounds := by
  intro secret seed n rounds bound enough
  simp only [ssl3Expand, if_pos bound, ← ssl3Round_succ]
  exact take_flatMap_range_eq (fun _ => length_ssl3Round secret seed _) (by omega) enough

/-- Round `i` of `P_hash` (R213), `i` from 0: the HMAC of `A(i + 1)` and the seed. -/
def pHashRound (alg : MacAlg) (secret seed : Bytes) (i : Nat) : Bytes :=
  hmac alg secret ((hmac alg secret)^[i + 1] seed ++ seed)

@[simp] theorem length_pHashRound (alg : MacAlg) (secret seed : Bytes) (i : Nat) :
    (pHashRound alg secret seed i).length = digestLen alg :=
  length_hmac alg secret _

/-- After `j` rounds the loop has their bytes and `A(j)`; it goes on to some number of rounds that is enough (R213). -/
theorem pHashLoop_eq_rounds (alg : MacAlg) (secret seed : Bytes) (n fuel j : Nat) (enough : n ≤ digestLen alg * j + fuel) :
    ∃ k, n ≤ digestLen alg * k ∧
      pHashLoop alg secret seed n fuel ((hmac alg secret)^[j] seed) ((List.range j).flatMap (pHashRound alg secret seed)) =
        (List.range k).flatMap (pHashRound alg secret seed) := by
  induction fuel generalizing j with
  | zero => exact ⟨j, enough, rfl⟩
  | succ fuel ih =>
    have length_out : ((List.range j).flatMap (pHashRound alg secret seed)).length = digestLen alg * j := by
      simp [List.length_flatMap, Nat.mul_comm]
    by_cases short : digestLen alg * j < n
    · have grows := digestLen_pos alg
      obtain ⟨k, reached, ran⟩ := ih (j + 1) (by rw [Nat.mul_succ]; omega)
      refine ⟨k, reached, ?_⟩
      rw [List.range_succ, List.flatMap_append, List.flatMap_singleton, pHashRound, Function.iterate_succ_apply'] at ran
      rw [pHashLoop, length_out, if_pos short, ran]
    · exact ⟨j, Nat.not_lt.mp short, by rw [pHashLoop, length_out, if_neg short]⟩

/-- Settles O39: the loop ends with rounds that are enough, and so are the rounds given. -/
theorem pHashIsItsRounds : Obligations.PHashIsItsRounds := by
  intro alg secret seed n rounds given
  have given : n ≤ digestLen alg * rounds := by cases alg <;> exact given
  obtain ⟨k, enough, ran⟩ := pHashLoop_eq_rounds alg secret seed n n 0 (Nat.le_add_left n _)
  calc pHash alg secret seed n
      = ((List.range k).flatMap (pHashRound alg secret seed)).take n := congrArg (List.take n) ran
    _ = ((List.range rounds).flatMap (pHashRound alg secret seed)).take n :=
      take_flatMap_range_eq (length_pHashRound alg secret seed) enough given

/-- The 48 bytes of an SSLv3 master secret are three rounds (R205, R214). -/
theorem ssl3Expand_48 (secret seed : Bytes) :
    ssl3Expand secret seed 48 = ssl3Round secret seed 1 ++ ssl3Round secret seed 2 ++ ssl3Round secret seed 3 := by
  rw [ssl3ExpandIsItsRounds secret seed 48 3 (by decide) (by decide)]
  simp only [← ssl3Round_succ]
  have rounds : (List.range 3).flatMap (fun i => ssl3Round secret seed (i + 1)) =
      ssl3Round secret seed 1 ++ ssl3Round secret seed 2 ++ ssl3Round secret seed 3 := by
    simp [List.range_succ]
  rw [rounds, List.take_of_length_le (by simp)]

/-- Settles O37: the second half of the PRF's secret starts at its length halved, rounded down; the other clauses are the branches of
`masterSecret` and `keyBlock`, with the rounds of the SSLv3 master secret. -/
theorem masterSecretAndKeyBlockInputs : Obligations.MasterSecretAndKeyBlockInputs := by
  refine ⟨fun secret label seed n => ?prf, fun _ _ => rfl, fun c ms n mode => ⟨rfl, ?rounds, rfl, rfl, ?tls⟩⟩
  case prf =>
    have half : secret.length - (secret.length + 1) / 2 = secret.length / 2 := by omega
    rw [prf, half]
  case rounds =>
    have expanded : masterSecret .sslv3 c = ssl3Expand c.premasterSecret (c.clientRandom ++ c.serverRandom) 48 := rfl
    rw [expanded, ssl3Expand_48]
    simp [ssl3Round, repeatByte, List.replicate_succ]
  case tls =>
    rintro cls (rfl | rfl) <;> exact ⟨rfl, rfl⟩

end Sys2Proof.Machine

/-! ### The first ChangeCipherSpec of a ready engine: a refused version, and the direction that triggers it (R204, R210, R215) -/
namespace Sys2Proof.Machine

/-- A version without a key schedule is refused, and nothing is written (R210, R215). -/
theorem keySchedule_refused {s : State} (ssl3 : s.conn.version ≠ 0x0300) (tls10 : s.conn.version ≠ 0x0301)
    (tls11 : s.conn.version ≠ 0x0302) (d : Dir) :
    keySchedule d s = (.fatal (if s.conn.version = 0x0303 then .tls12Version else .otherVersion), s) := by
  by_cases tls12 : s.conn.version = 0x0303
  · have cls : versionClass s.conn.version = .tls12 := by rw [tls12]; rfl
    simp only [keySchedule, cls, if_pos tls12]
  · simp only [keySchedule, versionClass_of_unknown ssl3 tls10 tls11 tls12, if_neg tls12]

theorem changeCipherSpec_refused {s : State} (ready : s.conn.ready = true) (noKeys : s.conn.keyScheduleDone = false)
    (ssl3 : s.conn.version ≠ 0x0300) (tls10 : s.conn.version ≠ 0x0301) (tls11 : s.conn.version ≠ 0x0302) (d : Dir) :
    changeCipherSpec d s = (.fatal (if s.conn.version = 0x0303 then .tls12Version else .otherVersion),
      s.setHs d (hsMax (s.peer d).hsState .changeCipherSpecSeen)) := by
  have refused := keySchedule_refused (s := s.setHs d (hsMax (s.peer d).hsState .changeCipherSpecSeen))
    (by rwa [conn_setHs]) (by rwa [conn_setHs]) (by rwa [conn_setHs]) d
  simp only [changeCipherSpec, ready, if_true, ccsReady, conn_setHs, noKeys, Bool.false_eq_true, if_false, refused]

/-- Settles O33: the rule moves the handshake state and raises, and the kind and detail are those of the refusal. -/
theorem unsupportedVersionDisables : Obligations.UnsupportedVersionDisables := by
  intro d vmaj vmin payload s ⟨running, buffered⟩ ready noKeys ssl3 tls10 tls11
  obtain ⟨t, ran, disabled⟩ :=
    runRecord_fatal_disabledBy running buffered (changeCipherSpec_refused ready noKeys ssl3 tls10 tls11 d)
  refine ⟨t, ran, ?_⟩
  by_cases tls12 : s.conn.version = 0x0303
  · rw [if_pos tls12] at disabled ⊢
    exact disabled
  · rw [if_neg tls12] at disabled ⊢
    exact disabled

theorem exec_ccs_first {s : State} {d : Dir} {payload : Bytes} (dispatches : s.dispatches d payload)
    (ready : s.conn.ready = true) (noKeys : s.conn.keyScheduleDone = false)
    (version : s.conn.version = 0x0300 ∨ s.conn.version = 0x0301 ∨ s.conn.version = 0x0302) (a b : Byte) :
    exec (.ccs d a b payload) s = .next ((s.afterFirstCcs d).advance d (5 + payload.length)) := by
  obtain ⟨running, buffered⟩ := dispatches
  exact runRecord_done running buffered (changeCipherSpec_first ready noKeys version d)
    (by rw [State.avail, stream_afterFirstCcs, State.avail])

/-- The key block is a function of the connection registers and the parameters (R204). -/
theorem derivedKeyBlock_congr {s s' : State} (conn : s'.conn = s.conn) (params : s'.params = s.params) :
    s'.derivedKeyBlock = s.derivedKeyBlock := by
  simp only [State.derivedKeyBlock, suite_of_params_eq (congrArg Conn.params conn), conn, params]

/-- So are the banks of both directions; the direction that triggers the derivation does not enter (R204). -/
theorem keys_afterFirstCcs_congr {s s' : State} (conn : s'.conn = s.conn) (params : s'.params = s.params) (d d' e : Dir) :
    ((s'.afterFirstCcs d').peer e).keys = ((s.afterFirstCcs d).peer e).keys := by
  have suite : s'.suite = s.suite := suite_of_params_eq (congrArg Conn.params conn)
  have block := derivedKeyBlock_congr conn params
  cases e with
  | clientToServer => simp only [peer_clientToServer, keys0_afterFirstCcs, conn, suite, block]
  | serverToClient => simp only [peer_serverToClient, keys1_afterFirstCcs, conn, suite, block]

/-- Settles O34: both runs leave the state of a first ChangeCipherSpec, whose registers and banks are functions of what the two
states share. -/
theorem keysIgnoreTheTriggeringDirection : Obligations.KeysIgnoreTheTriggeringDirection := by
  intro a b a' b' x y s s' t t' dispatches dispatches' ready noKeys conn params version ran ran'
  cases ran.symm.trans (exec_ccs_first dispatches ready noKeys version a b)
  cases ran'.symm.trans (exec_ccs_first dispatches' (by rwa [conn]) (by rwa [conn]) (by rwa [conn]) a' b')
  refine ⟨?conn, fun e => ?keys⟩
  case conn => rw [conn_advance, conn_advance, conn_afterFirstCcs, conn_afterFirstCcs, conn]
  case keys => rw [keys_advance, keys_advance, keys_afterFirstCcs_congr conn params]

end Sys2Proof.Machine

/-! ### The keys and the master secret are written by the key schedule alone (R29, R216) -/
namespace Sys2Proof.Machine

/-- `t` has the master secret, the MAC and encryption keys and the flag `key_schedule_done` of `s`. -/
structure KeepsKeys (s t : State) : Prop where
  done : t.conn.keyScheduleDone = s.conn.keyScheduleDone
  master : t.conn.masterSecret = s.conn.masterSecret
  macKey : ∀ d, (t.peer d).keys.macKey = (s.peer d).keys.macKey
  encKey : ∀ d, (t.peer d).keys.encKey = (s.peer d).keys.encKey

namespace KeepsKeys

theorem refl (s : State) : KeepsKeys s s := ⟨rfl, rfl, fun _ => rfl, fun _ => rfl⟩

theorem trans {s t u : State} (h : KeepsKeys s t) (k : KeepsKeys t u) : KeepsKeys s u where
  done := k.done.trans h.done
  master := k.master.trans h.master
  macKey d := (k.macKey d).trans (h.macKey d)
  encKey d := (k.encKey d).trans (h.encKey d)

/-- Writes outside the key banks that leave the two registers alone. -/
theorem of_keys_eq {s t : State} (keys : ∀ d, (t.peer d).keys = (s.peer d).keys)
    (done : t.conn.keyScheduleDone = s.conn.keyScheduleDone) (master : t.conn.masterSecret = s.conn.masterSecret) :
    KeepsKeys s t :=
  ⟨done, master, fun d => by rw [keys d], fun d => by rw [keys d]⟩

theorem of_conn_eq {s t : State} (keys : ∀ d, (t.peer d).keys = (s.peer d).keys) (conn : t.conn = s.conn) : KeepsKeys s t :=
  of_keys_eq keys (by rw [conn]) (by rw [conn])

theorem emit (s : State) (e : Event) : KeepsKeys s (s.emit e) := of_conn_eq (by simp) rfl

theorem setHs (s : State) (d : Dir) (x : HandshakeState) : KeepsKeys s (s.setHs d x) := of_conn_eq (by simp) (by simp)

theorem advance (s : State) (d : Dir) (n : Nat) : KeepsKeys s (s.advance d n) := of_conn_eq (by simp) (by simp)

theorem append (s : State) (d : Dir) (bs : Bytes) : KeepsKeys s (s.append d bs) := of_conn_eq (by simp) (by simp)

theorem withResponse (s : State) (r : Response) : KeepsKeys s { s with response := r } := of_conn_eq (by simp) rfl

/-- A write of connection registers other than the master secret and the flag. -/
theorem withConn (s : State) (c : Conn) (done : c.keyScheduleDone = s.conn.keyScheduleDone := by rfl)
    (master : c.masterSecret = s.conn.masterSecret := by rfl) : KeepsKeys s { s with conn := c } :=
  of_keys_eq (by simp) done master

/-- A write of a bank that keeps its two keys. -/
theorem setKeys (s : State) (d : Dir) {k : KeyBank} (macKey : k.macKey = (s.peer d).keys.macKey)
    (encKey : k.encKey = (s.peer d).keys.encKey) : KeepsKeys s (s.setKeys d k) := by
  refine ⟨by simp, by simp, fun e => ?_, fun e => ?_⟩
  all_goals rcases eq_or_eq_other d e with rfl | rfl
  · simpa using macKey
  · simp
  · simpa using encKey
  · simp

theorem of_workOnly {s t : State} (h : WorkOnly s t) : KeepsKeys s t := by
  obtain ⟨w, rfl⟩ := h
  exact of_conn_eq (by simp) rfl

theorem surface (s : State) (d : Dir) : KeepsKeys s (s.surface d) := of_conn_eq (keys_surface s d) (conn_surface s d)

theorem disable (s : State) (d : Dir) (e : FatalError) : KeepsKeys s (s.disable d e) :=
  of_keys_eq (keys_disable s d e) (by rw [conn_disable]) (by rw [conn_disable])

end KeepsKeys

/-! #### The messages -/

theorem commitClientHello_keepsKeys (f : ClientHelloFields) (s : State) : KeepsKeys s (commitClientHello f s) :=
  (KeepsKeys.withConn s _).trans (.setHs _ _ _)

theorem acceptServerHello_keepsKeys (l : LoadedSuite) (s : State) : KeepsKeys s (acceptServerHello l s) :=
  (KeepsKeys.withConn s _).trans (.setHs _ _ _)

theorem clientHelloFields_keepsKeys (f : ClientHelloFields) (s : State) : KeepsKeys s (clientHelloFields f s).2 := by
  have loop : KeepsKeys s (extensionsLoop (f.ext.getD []).length (f.ext.getD []) (startWork s)).2 :=
    .of_workOnly (.trans ⟨_, rfl⟩ (extensionsLoop_workOnly _ _ _))
  unfold clientHelloFields
  split <;> rename_i answer <;> rw [answer] at loop
  · exact loop.trans (commitClientHello_keepsKeys f _)
  · exact loop
  · exact loop

theorem clientHello_keepsKeys (d : Dir) (body : Bytes) (s : State) : KeepsKeys s (clientHello d body s).2 := by
  unfold clientHello
  split
  · exact .refl s
  · split
    · exact .refl s
    · split
      · exact .refl s
      · exact clientHelloFields_keepsKeys _ s

theorem serverHello_keepsKeys (d : Dir) (body : Bytes) (s : State) : KeepsKeys s (serverHello d body s).2 := by
  unfold serverHello
  split
  · exact .refl s
  · split
    · exact .refl s
    · split
      case h_1 => exact .refl s
      case h_2 f _ =>
        have populated : KeepsKeys s (populateServerHello f s) := .withConn s _
        split
        · exact populated
        · exact populated.trans (acceptServerHello_keepsKeys _ _)

theorem premasterRecover_keepsKeys (enc : Bytes) (s : State) : KeepsKeys s (premasterRecover enc s).2 := by
  unfold premasterRecover
  split
  · exact .refl s
  · split
    · exact .withConn s _
    · exact .refl s

theorem clientKeyExchange_keepsKeys (d : Dir) (body : Bytes) (s : State) : KeepsKeys s (clientKeyExchange d body s).2 := by
  unfold clientKeyExchange
  split
  · exact .refl s
  · split
    · exact .refl s
    · split
      · exact .refl s
      · exact (KeepsKeys.withConn s _).trans (premasterRecover_keepsKeys _ _)

theorem newSessionTicket_keepsKeys (d : Dir) (body : Bytes) (s : State) : KeepsKeys s (newSessionTicket d body s).2 := by
  unfold newSessionTicket
  split
  · exact .refl s
  · split
    · exact .refl s
    · exact .withConn s _

theorem handshakeMessage_keepsKeys (d : Dir) (ty : Byte) (body : Bytes) (s : State) :
    KeepsKeys s (handshakeMessage d ty body s).2 := by
  unfold handshakeMessage
  split
  · exact clientHello_keepsKeys d body s
  · exact serverHello_keepsKeys d body s
  · exact newSessionTicket_keepsKeys d body s
  · exact clientKeyExchange_keepsKeys d body s
  all_goals exact .refl s

theorem messagesLoop_keepsKeys (d : Dir) (fuel : Nat) (payload : Bytes) (s : State) :
    KeepsKeys s (messagesLoop d fuel payload s).2 := by
  induction fuel generalizing payload s with
  | zero => exact .refl s
  | succ fuel ih =>
    cases payload with
    | nil => exact .refl s
    | cons b bs =>
      simp only [messagesLoop]
      split
      case h_1 => exact .refl s
      case h_2 h body rest _ =>
        have message := handshakeMessage_keepsKeys d (byteAt h 0) body s
        split <;> rename_i answer <;> rw [answer] at message
        · exact (message.trans (.emit _ _)).trans (ih _ _)
        · exact message
        · exact message

/-! #### Decryption -/

/-- Bulk decryption writes the IV or the stream state of a bank, not its keys (R230, R232, R233). -/
theorem keys_decryptBody (cls : VersionClass) (mode : PaddingCheck) (p : CipherSuiteParams) (k : KeyBank) (payload : Bytes) :
    (decryptBody cls mode p k payload).1.macKey = k.macKey ∧ (decryptBody cls mode p k payload).1.encKey = k.encKey := by
  unfold decryptBody
  split
  · exact ⟨rfl, rfl⟩
  · split
    · exact ⟨rfl, rfl⟩
    · dsimp only
      split
      · exact ⟨rfl, rfl⟩
      · exact ⟨rfl, rfl⟩

theorem acceptBody_keepsKeys (cls : VersionClass) (p : CipherSuiteParams) (d : Dir) (ty a b : Byte) (body : Bytes) (s : State) :
    KeepsKeys s (acceptBody cls p d ty a b body s).2 := by
  unfold acceptBody
  split
  · exact .refl s
  · split
    · exact .refl s
    · exact (KeepsKeys.setKeys s d (k := { (s.peer d).keys with seq := (s.peer d).keys.seq + 1 }) rfl rfl).trans (.emit _ _)

theorem decrypt_keepsKeys (d : Dir) (ty a b : Byte) (payload : Bytes) (s : State) :
    KeepsKeys s (decrypt d ty a b payload s).2 := by
  obtain ⟨macKey, encKey⟩ :=
    keys_decryptBody (versionClass s.conn.version) s.params.paddingCheck s.suite (s.peer d).keys payload
  unfold decrypt
  split <;> rename_i answer <;> rw [answer] at macKey encKey
  · exact .setKeys s d macKey encKey
  · exact (KeepsKeys.setKeys s d macKey encKey).trans (acceptBody_keepsKeys _ _ _ _ _ _ _ _)

theorem handshakeEnc_keepsKeys (d : Dir) (a b : Byte) (payload : Bytes) (s : State) :
    KeepsKeys s (handshakeEnc d a b payload s).2 := by
  have decrypted := decrypt_keepsKeys d 22 a b payload s
  unfold handshakeEnc
  split <;> rename_i answer <;> rw [answer] at decrypted
  · split
    · exact decrypted.trans (.setHs _ _ _)
    · exact decrypted
  · exact decrypted
  · exact decrypted

theorem applicationData_keepsKeys (d : Dir) (a b : Byte) (payload : Bytes) (s : State) :
    KeepsKeys s (applicationData d a b payload s).2 := by
  unfold applicationData
  split
  · split
    · exact decrypt_keepsKeys d 23 a b payload s
    · exact .refl s
  · split <;> exact .refl s

/-! #### Messages, extensions and list entries by themselves -/

theorem runMessage_keepsKeys (d : Dir) (ty : Byte) (body : Bytes) {rule : State → RuleResult × State} {s : State}
    (h : KeepsKeys s (rule s).2) : KeepsKeys s (runMessage d ty body rule s) := by
  unfold runMessage
  split
  · exact .refl s
  · split <;> rename_i answer <;> rw [answer] at h
    · exact h.trans (.emit _ _)
    · exact h.trans (.disable _ _ _)
    · exact h

theorem runHelloPart_keepsKeys {rule : State → RuleResult × State} {s : State} (workOnly : WorkOnly s (rule s).2) :
    KeepsKeys s (runHelloPart rule s) := by
  unfold runHelloPart
  split
  · exact .refl s
  · split <;> rename_i answer <;> rw [answer] at workOnly
    · exact (KeepsKeys.of_workOnly workOnly).trans (.disable _ _ _)
    · exact .of_workOnly workOnly
    · exact .of_workOnly workOnly

/-! #### Records, the drain and the commands -/

/-- From `s` to `t` the keys and the master secret stay, or `key_schedule_done` goes from 0 to 1 (R216). -/
def KeysOnce (s t : State) : Prop :=
  KeepsKeys s t ∨ s.conn.keyScheduleDone = false ∧ t.conn.keyScheduleDone = true

namespace KeysOnce

theorem trans {s t u : State} (h : KeysOnce s t) (k : KeysOnce t u) : KeysOnce s u := by
  obtain kept | ⟨before, after⟩ := h
  · obtain kept' | ⟨before', after'⟩ := k
    · exact .inl (kept.trans kept')
    · exact .inr ⟨kept.done ▸ before', after'⟩
  · obtain kept' | ⟨_, after'⟩ := k
    · exact .inr ⟨before, kept'.done.trans after⟩
    · exact .inr ⟨before, after'⟩

theorem then_keeps {s t u : State} (h : KeysOnce s t) (k : KeepsKeys t u) : KeysOnce s u := h.trans (.inl k)

/-- What changed did so while the flag went from 0 to 1. -/
theorem derived_of_changed {s t : State} (h : KeysOnce s t)
    (changed : s.conn.masterSecret ≠ t.conn.masterSecret ∨
      ∃ d, (s.peer d).keys.macKey ≠ (t.peer d).keys.macKey ∨ (s.peer d).keys.encKey ≠ (t.peer d).keys.encKey) :
    s.conn.keyScheduleDone = false ∧ t.conn.keyScheduleDone = true := by
  obtain kept | derived := h
  · obtain master | ⟨d, macKey | encKey⟩ := changed
    · exact absurd kept.master.symm master
    · exact absurd (kept.macKey d).symm macKey
    · exact absurd (kept.encKey d).symm encKey
  · exact derived

end KeysOnce

/-- A ChangeCipherSpec derives keys only while `key_schedule_done` is 0, and sets it then (R145, R203). -/
theorem changeCipherSpec_keysOnce (d : Dir) (s : State) : KeysOnce s (changeCipherSpec d s).2 := by
  have seen : KeepsKeys s (s.setHs d (hsMax (s.peer d).hsState .changeCipherSpecSeen)) := .setHs s d _
  cases ready : s.conn.ready with
  | false =>
    cases other : (s.peer d.other).hsState.reachedCcs with
    | false => rw [changeCipherSpec_held ready other]; exact .inl seen
    | true => rw [changeCipherSpec_without_keys ready other]; exact .inl seen
  | true =>
    cases done : s.conn.keyScheduleDone with
    | true => rw [changeCipherSpec_with_keys ready done]; exact .inl (seen.trans (.emit _ _))
    | false =>
      obtain ⟨u, rfl, ⟨t, derived, isDone, _⟩ | held | ⟨e, refused⟩⟩ := changeCipherSpec_cases (K := True) d s
      · rw [derived]; exact .inr ⟨done, isDone⟩
      · rw [held]; exact .inl seen
      · rw [refused]; exact .inl seen

theorem dispatch_keysOnce (d : Dir) (ty a b : Byte) (payload : Bytes) (s : State) :
    KeysOnce s (dispatch d ty a b payload s).2 := by
  unfold dispatch
  split
  · split
    · exact .inl (handshakeEnc_keepsKeys d a b payload s)
    · exact .inl (messagesLoop_keepsKeys d _ payload s)
  · exact changeCipherSpec_keysOnce d s
  · split
    · exact .inl (decrypt_keepsKeys d 21 a b payload s)
    · exact .inl (.emit s _)
  · exact .inl (applicationData_keepsKeys d a b payload s)
  · exact .inl (.refl s)

theorem runRecord_keysOnce (d : Dir) (n : Nat) {rule : State → RuleResult × State} {s : State}
    (frame : RuleFrame s (rule s).2) (once : KeysOnce s (rule s).2) :
    ∃ progress t, runRecord d n rule s = .next (progress, t) ∧ KeysOnce s t := by
  obtain ⟨_, passed⟩ | ⟨_, _, short⟩ | ⟨_, _, ⟨t, done, ran⟩ | ⟨t, held, ran⟩ | ⟨e, t, failed, ran⟩⟩ :=
    runRecord_cases (d := d) (n := n) frame
  · exact ⟨_, _, passed, .inl (.surface s d)⟩
  · exact ⟨_, _, short, .inl (.refl s)⟩
  · rw [done] at once
    exact ⟨_, _, ran, once.then_keeps (.advance t d n)⟩
  · rw [held] at once
    exact ⟨_, _, ran, once⟩
  · rw [failed] at once
    exact ⟨_, _, ran, once.then_keeps (.disable t d e)⟩

theorem stepDir_keysOnce (d : Dir) (s : State) : ∃ progress t, stepDir d s = .next (progress, t) ∧ KeysOnce s t := by
  cases running : s.conn.disabled with
  | true => exact ⟨_, _, stepDir_of_disabled running, .inl (.surface s d)⟩
  | false =>
    cases fetched : fetchRecord d s with
    | none => exact ⟨_, _, stepDir_of_needMoreData running fetched, .inl (.refl s)⟩
    | some r =>
      have ran := runRecord_keysOnce d r.length (dispatch_frame d (byteAt r 0) (byteAt r 1) (byteAt r 2) (r.drop 5) s)
        (dispatch_keysOnce _ _ _ _ _ _)
      simpa only [stepDir, running, fetched, Bool.false_eq_true, if_false] using ran

theorem stateOf_runRecord_keysOnce (d : Dir) (n : Nat) {rule : State → RuleResult × State} {s : State}
    (frame : RuleFrame s (rule s).2) (once : KeysOnce s (rule s).2) :
    ∃ t, stateOf (runRecord d n rule s) = .next t ∧ KeysOnce s t := by
  obtain ⟨_, t, ran, once'⟩ := runRecord_keysOnce d n frame once
  exact ⟨t, by rw [ran]; rfl, once'⟩

theorem execFeed_keysOnce (d : Byte) (bs : Bytes) (s : State) : ∃ t, execFeed d bs s = .next t ∧ KeysOnce s t :=
  execFeed_keeps d bs s (fun t r once => once.then_keeps (.withResponse t r))
    (fun d bs t _ once => once.then_keeps (.append t d bs))
    (fun d t once =>
      have ⟨progress, u, stepped, once'⟩ := stepDir_keysOnce d t
      ⟨progress, u, stepped, once.trans once'⟩)
    (.inl (.refl s))

theorem finishOpen_keepsKeys (s : State) : KeepsKeys s (finishOpen s) := by
  have flushed : KeepsKeys s ((s.respond .ok).flushRaw .clientToServer) :=
    ((KeepsKeys.withResponse s _).trans (.surface _ _)).trans (.surface _ _)
  rw [finishOpen_eq_flushRaw]
  exact flushed.trans (.withConn _ _ flushed.done.symm flushed.master.symm)

theorem exec_finish_keepsKeys (s : State) : ∃ t, exec .finish s = .next t ∧ KeepsKeys s t := by
  cases closed : s.conn.closed with
  | true => exact ⟨_, exec_finish_of_closed closed, .withResponse s _⟩
  | false => exact ⟨_, exec_finish_of_open closed, (finishOpen_keepsKeys s).trans (.withResponse _ _)⟩

/-- Every instruction but CREATE changes keys or the master secret only where the key schedule runs for the first time. -/
theorem exec_keysOnce (i : Instr) (s : State) (notCreate : ∀ p, i ≠ .create p) : ∃ t, exec i s = .next t ∧ KeysOnce s t := by
  cases i with
  | ccs d a b p => exact stateOf_runRecord_keysOnce d _ (changeCipherSpec_frame d s) (changeCipherSpec_keysOnce d s)
  | alertPlain d a b p => exact stateOf_runRecord_keysOnce d _ (rule := alertPlain d p) (.emit s _) (.inl (.emit s _))
  | alertProtected d a b p =>
    exact stateOf_runRecord_keysOnce d _ (decrypt_frame d 21 a b p s) (.inl (decrypt_keepsKeys d 21 a b p s))
  | handshakePlain d a b p =>
    exact stateOf_runRecord_keysOnce d _ (handshakePlain_frame d p s) (.inl (messagesLoop_keepsKeys d _ p s))
  | handshakeProtected d a b p =>
    exact stateOf_runRecord_keysOnce d _ (handshakeEnc_frame d a b p s) (.inl (handshakeEnc_keepsKeys d a b p s))
  | appData d a b p =>
    exact stateOf_runRecord_keysOnce d _ (applicationData_frame d a b p s) (.inl (applicationData_keepsKeys d a b p s))
  | recordIllegal d ty a b p => exact stateOf_runRecord_keysOnce d _ (rule := illegalRecord) (.refl s) (.inl (.refl s))
  | hsClientHello d body => exact ⟨_, rfl, .inl (runMessage_keepsKeys d 1 body (clientHello_keepsKeys d body s))⟩
  | hsServerHello d body => exact ⟨_, rfl, .inl (runMessage_keepsKeys d 2 body (serverHello_keepsKeys d body s))⟩
  | hsNewSessionTicket d body => exact ⟨_, rfl, .inl (runMessage_keepsKeys d 4 body (newSessionTicket_keepsKeys d body s))⟩
  | hsClientKeyExchange d body => exact ⟨_, rfl, .inl (runMessage_keepsKeys d 16 body (clientKeyExchange_keepsKeys d body s))⟩
  | hsHelloRequest | hsCertificate | hsServerKeyExchange | hsCertificateRequest | hsServerHelloDone | hsCertificateVerify
  | hsFinished | hsUnknown => exact ⟨_, rfl, .inl (runMessage_keepsKeys _ _ _ (rule := skipMessage) (.refl s))⟩
  | extServerName data => exact ⟨_, rfl, .inl (runHelloPart_keepsKeys (serverNameExt_workOnly data s))⟩
  | extSessionTicket data => exact ⟨_, rfl, .inl (runHelloPart_keepsKeys (rule := sessionTicketExt data) ⟨_, rfl⟩)⟩
  | extOther ty data => exact ⟨_, rfl, .inl (runHelloPart_keepsKeys (rule := otherExt) (.refl s))⟩
  | sniHostName name => exact ⟨_, rfl, .inl (runHelloPart_keepsKeys (hostNameEntry_workOnly name s))⟩
  | sniOther ty name => exact ⟨_, rfl, .inl (runHelloPart_keepsKeys (rule := otherNameEntry) (.refl s))⟩
  | create p => exact absurd rfl (notCreate p)
  | feed d bs => exact execFeed_keysOnce d bs s
  | finish =>
    obtain ⟨t, ran, kept⟩ := exec_finish_keepsKeys s
    exact ⟨t, ran, .inl kept⟩
  | status | cmdIllegal => exact ⟨_, rfl, .inl (.withResponse s _)⟩

/-- Settles O25: every instruction but CREATE keeps the keys, or sets the flag. -/
theorem keysAreWrittenOnce : Obligations.KeysAreWrittenOnce := by
  intro i s t notCreate ran changed
  obtain ⟨u, ran', once⟩ := exec_keysOnce i s notCreate
  cases ran.symm.trans ran'
  exact once.derived_of_changed changed

end Sys2Proof.Machine

/-! ### Decryption reads and writes one direction's bank (R231) -/
namespace Sys2Proof.Machine

@[simp] theorem suite_setPeer (s : State) (d : Dir) (p : Peer) : (s.setPeer d p).suite = s.suite := by cases d <;> rfl

section OtherBank

variable (s : State) (d : Dir) (q : Peer)

@[simp] theorem peer_setPeer_of_other : (s.setPeer d.other q).peer d = s.peer d := by cases d <;> rfl

theorem setKeys_setPeer_other (k : KeyBank) : (s.setPeer d.other q).setKeys d k = (s.setKeys d k).setPeer d.other q := by
  cases d <;> rfl

theorem emit_setPeer (e : Event) : (s.setPeer d q).emit e = (s.emit e).setPeer d q := by cases d <;> rfl

/-- Replacing the bank of the other direction commutes with steps 3 to 5 of R230. -/
theorem acceptBody_setPeer_other (cls : VersionClass) (p : CipherSuiteParams) (ty a b : Byte) (body : Bytes) :
    acceptBody cls p d ty a b body (s.setPeer d.other q) =
      ((acceptBody cls p d ty a b body s).1, (acceptBody cls p d ty a b body s).2.setPeer d.other q) := by
  unfold acceptBody
  simp only [params_setPeer, peer_setPeer_of_other, setKeys_setPeer_other, emit_setPeer]
  split
  · rfl
  · split <;> rfl

end OtherBank

/-- Settles O26: bulk decryption reads the connection and the bank of `d`; every write is one of the bank of `d`, or an event. -/
theorem decryptIgnoresTheOtherDirection : Obligations.DecryptIgnoresTheOtherDirection := by
  intro d ty a b payload s q
  unfold decrypt
  simp only [conn_setPeer, params_setPeer, suite_setPeer, peer_setPeer_of_other, setKeys_setPeer_other]
  split
  · rfl
  · exact acceptBody_setPeer_other ..

end Sys2Proof.Machine

/-! ### CBC decryption (R234) -/
namespace Sys2Proof.Machine

/-- One turn of the loop of R234, on a whole block at the head of the ciphertext. -/
theorem cbcBlocks_append {block : Bytes} {bl : Nat} (positive : 0 < bl) (len : block.length = bl) (c : Cipher)
    (key prev rest : Bytes) (fuel : Nat) :
    cbcBlocks c key bl (fuel + 1) prev (block ++ rest) =
      xorBytes (blockDec c key block) prev ++ cbcBlocks c key bl fuel block rest := by
  obtain ⟨x, xs, nonempty⟩ := List.exists_cons_of_length_pos (l := block ++ rest) (by rw [List.length_append]; omega)
  have unrolled : cbcBlocks c key bl (fuel + 1) prev (block ++ rest) =
      xorBytes (blockDec c key ((block ++ rest).take bl)) prev ++
        cbcBlocks c key bl fuel ((block ++ rest).take bl) ((block ++ rest).drop bl) := by
    rw [nonempty, cbcBlocks]
  rw [unrolled, List.take_left' len, List.drop_left' len]

/-- The loop of R234 on whole blocks, with any bound that is no less than their number. -/
theorem cbcBlocks_flatten {bl : Nat} (positive : 0 < bl) (c : Cipher) (key : Bytes) {blocks : List Bytes}
    (whole : ∀ b ∈ blocks, b.length = bl) (prev : Bytes) {fuel : Nat} (enough : blocks.length ≤ fuel) :
    cbcBlocks c key bl fuel prev blocks.flatten =
      (List.zipWith (fun b prev => xorBytes (blockDec c key b) prev) blocks (prev :: blocks)).flatten := by
  induction blocks generalizing prev fuel with
  | nil => cases fuel <;> rfl
  | cons block blocks ih =>
    obtain ⟨len, whole⟩ := List.forall_mem_cons.mp whole
    obtain ⟨fuel, rfl⟩ : ∃ n, fuel = n + 1 := Nat.exists_eq_add_one.mpr (Nat.zero_lt_of_lt enough)
    rw [List.flatten_cons, cbcBlocks_append positive len, ih whole block (Nat.le_of_succ_le_succ enough),
      List.zipWith_cons_cons, List.flatten_cons]

/-- Settles O44: there are no more blocks than bytes, so the bound of the loop is never felt. -/
theorem cbcDecryptsBlockByBlock : Obligations.CbcDecryptsBlockByBlock := by
  intro c key iv bl blocks positive whole
  have bytes : blocks.flatten.length = blocks.length * bl := by
    rw [List.length_flatten, List.map_congr_left whole, List.map_const', List.sum_replicate, smul_eq_mul]
  exact cbcBlocks_flatten positive c key whole iv (bytes ▸ Nat.le_mul_of_pos_right _ positive)

end Sys2Proof.Machine

/-! ### Padding (R237, R238) -/
namespace Sys2Proof.Machine

section Padding

variable (cls : VersionClass) (mode : PaddingCheck) (p : CipherSuiteParams)

theorem unpad_nil : unpad cls mode p [] = .error .padOverrun := rfl

theorem unpad_overrun {x : Bytes} {pl : Byte} (short : x.length < pl.toNat) :
    unpad cls mode p (x ++ [pl]) = .error .padOverrun := by
  simp only [unpad, List.getLast?_concat, List.length_append, List.length_singleton, Nat.add_lt_add_iff_right, if_pos short]

/-- A plaintext that holds as many bytes before its pad length as that says: a body and its pad bytes (R237, R238). -/
theorem unpad_padded {body pad : Bytes} {pl : Byte} (len : pad.length = pl.toNat) :
    unpad cls mode p (body ++ pad ++ [pl]) =
      if cls = .sslv3 ∧ mode = .lengthOnly then
        if p.blockLen ≤ pl.toNat then .error .padOverrun else .ok body
      else if ∀ b ∈ pad, b = pl then .ok body
      else .error .padByteMismatch := by
  have bodyLen : (body ++ pad ++ [pl]).length - 1 - pl.toNat = body.length := by
    rw [List.length_append, List.length_append, List.length_singleton, len]; omega
  have long : ¬ (body ++ pad ++ [pl]).length ≤ pl.toNat := by
    rw [List.length_append, List.length_append, List.length_singleton, len]; omega
  have isBody : (body ++ pad ++ [pl]).take body.length = body := by
    rw [List.append_assoc, List.take_left]
  have isPad : slice (body ++ pad ++ [pl]) body.length pl.toNat = pad := by
    rw [slice, List.append_assoc, List.drop_left, ← len, List.take_left]
  simp only [unpad, List.getLast?_concat, Nat.lt_succ_iff, if_neg long, bodyLen, isBody, isPad, List.all_eq_true, beq_iff_eq]

/-- Each plaintext is empty, overrun by its pad length, or a body with its pad bytes and their number (R237). -/
theorem padded_cases (pt : Bytes) :
    pt = [] ∨ (∃ x pl, x.length < pl.toNat ∧ pt = x ++ [pl]) ∨
      ∃ (body pad : Bytes) (pl : Byte), pad.length = pl.toNat ∧ pt = body ++ pad ++ [pl] := by
  obtain rfl | ⟨x, pl, rfl⟩ := List.eq_nil_or_concat' pt
  · exact .inl rfl
  · by_cases short : x.length < pl.toNat
    · exact .inr (.inl ⟨x, pl, short, rfl⟩)
    · refine .inr (.inr ⟨x.take (x.length - pl.toNat), x.drop (x.length - pl.toNat), pl, ?_, ?_⟩)
      · rw [List.length_drop]; omega
      · rw [List.take_append_drop]

variable {cls mode} (strict : ¬ (cls = .sslv3 ∧ mode = .lengthOnly))
include strict

/-- Strict unpadding accepts the plaintexts that end with `pl + 1` bytes of value `pl`, and no others (R237). -/
theorem unpad_eq_ok_iff (pt body : Bytes) :
    unpad cls mode p pt = .ok body ↔ ∃ pl : Byte, pt = body ++ List.replicate (pl.toNat + 1) pl := by
  constructor
  case mp =>
    intro accepted
    obtain rfl | ⟨x, pl, short, rfl⟩ | ⟨body', pad, pl, len, rfl⟩ := padded_cases pt
    · rw [unpad_nil] at accepted
      cases accepted
    · rw [unpad_overrun cls mode p short] at accepted
      cases accepted
    · rw [unpad_padded cls mode p len, if_neg strict] at accepted
      split at accepted
      case isTrue uniform =>
        cases accepted
        have isPad : pad = List.replicate pl.toNat pl := List.eq_replicate_iff.mpr ⟨len, uniform⟩
        exact ⟨pl, by rw [isPad, List.append_assoc, List.replicate_succ']⟩
      case isFalse => cases accepted
  case mpr =>
    rintro ⟨pl, rfl⟩
    rw [List.replicate_succ', ← List.append_assoc, unpad_padded cls mode p List.length_replicate, if_neg strict,
      if_pos fun b => List.eq_of_mem_replicate]

theorem unpad_mismatch {body pad : Bytes} {pl : Byte} (len : pad.length = pl.toNat) (differs : ∃ b ∈ pad, b ≠ pl) :
    unpad cls mode p (body ++ pad ++ [pl]) = .error .padByteMismatch := by
  rw [unpad_padded cls mode p len, if_neg strict, if_neg (by simpa using differs)]

end Padding

theorem unpad_lengthOnly (p : CipherSuiteParams) {body pad : Bytes} {pl : Byte} (len : pad.length = pl.toNat) :
    unpad .sslv3 .lengthOnly p (body ++ pad ++ [pl]) =
      if p.blockLen ≤ pl.toNat then .error .padOverrun else .ok body := by
  rw [unpad_padded _ _ p len, if_pos ⟨rfl, rfl⟩]

/-- Settles O45: strict, the pad bytes are all `pl` or one differs; with `LengthOnly` their number is held against the block
length. -/
theorem unpadRemovesExactlyThePadding : Obligations.UnpadRemovesExactlyThePadding := by
  refine ⟨fun cls mode p strict => ⟨unpad_eq_ok_iff p strict, fun _ _ => unpad_overrun cls mode p,
    fun _ _ _ => unpad_mismatch p strict⟩, fun p body pad pl len => ⟨fun below => ?below, fun above => ?above⟩,
    fun p _ _ => unpad_overrun _ _ p⟩
  case below => rw [unpad_lengthOnly p len, if_neg (Nat.not_le.mpr below)]
  case above => rw [unpad_lengthOnly p len, if_pos above]

end Sys2Proof.Machine

/-! ### The protected records of a keyed direction (R136, R148, R150, R230) -/
namespace Sys2Proof.Machine

/-! #### From the answer of `Decrypt` to the record -/

/-- A first decrypted handshake record after ChangeCipherSpec enters `Finished` (R136, R151); no other record type does. -/
def State.enterFinished (s : State) (d : Dir) (ty : Byte) : State :=
  s.setHs d (if ty = 22 ∧ (s.peer d).hsState = .changeCipherSpecSeen then .finished else (s.peer d).hsState)

theorem enterFinished_of_ne {ty : Byte} (other : ty ≠ 22) (s : State) (d : Dir) : s.enterFinished d ty = s := by
  rw [State.enterFinished, if_neg fun first => other first.1, setHs_hsState]

theorem handshakeEnc_done {d : Dir} {a b : Byte} {payload : Bytes} {s t : State}
    (decrypted : decrypt d 22 a b payload s = (.done, t)) : handshakeEnc d a b payload s = (.done, t.enterFinished d 22) := by
  simp only [handshakeEnc, decrypted, State.enterFinished, true_and]
  split
  · rfl
  · rw [setHs_hsState]

theorem handshakeEnc_fatal {d : Dir} {a b : Byte} {payload : Bytes} {s t : State} {e : FatalError}
    (raised : decrypt d 22 a b payload s = (.fatal e, t)) : handshakeEnc d a b payload s = (.fatal e, t) := by
  simp only [handshakeEnc, raised]

theorem delivered_eq_enterFinished (s : State) (d : Dir) (ty : Byte) (frag : Bytes) (n : Nat) :
    s.delivered d ty frag n = ((s.accepted d ty frag).enterFinished d ty).advance d n := by
  rw [State.enterFinished, hsState_accepted, State.accepted, setHs_emit, State.delivered]

section Protected

variable {s : State} {i : Instr} {d : Dir} {ty a b : Byte} {payload : Bytes}

/-- The three protected forms run a record whose rule answers as `Decrypt` does (R136, R148, R150). -/
theorem exists_rule_of_decrypts (h : s.decrypts i d ty a b payload) :
    ∃ rule, exec i s = stateOf (runRecord d (5 + payload.length) rule s) ∧
      (∀ t, decrypt d ty a b payload s = (.done, t) → rule s = (.done, t.enterFinished d ty)) ∧
      ∀ e t, decrypt d ty a b payload s = (.fatal e, t) → rule s = (.fatal e, t) := by
  obtain ⟨-, ⟨rfl, rfl, ready, done⟩ | ⟨rfl, rfl⟩ | ⟨rfl, rfl⟩⟩ := h
  case inl =>
    have rule : applicationData d a b payload s = decrypt d 23 a b payload s := by
      rw [applicationData, if_pos ready, if_pos done]
    exact ⟨_, rfl, fun t decrypted => by rw [rule, decrypted, enterFinished_of_ne (by decide)],
      fun _ _ raised => rule.trans raised⟩
  case inr.inl =>
    exact ⟨alertEnc d a b payload, rfl, fun t decrypted => by rw [alertEnc, decrypted, enterFinished_of_ne (by decide)],
      fun _ _ raised => raised⟩
  case inr.inr => exact ⟨handshakeEnc d a b payload, rfl, fun _ => handshakeEnc_done, fun _ _ => handshakeEnc_fatal⟩

theorem exec_of_decrypt_done (h : s.decrypts i d ty a b payload) {t : State}
    (decrypted : decrypt d ty a b payload s = (.done, t)) :
    exec i s = .next ((t.enterFinished d ty).advance d (5 + payload.length)) := by
  obtain ⟨rule, runs, done, -⟩ := exists_rule_of_decrypts h
  have avail : t.avail d = s.avail d := by
    have frame := decrypt_frame d ty a b payload s
    rw [decrypted] at frame
    exact frame.avail d
  obtain ⟨⟨running, buffered⟩, -⟩ := h
  rw [runs]
  exact runRecord_done running buffered (done t decrypted) ((avail_setHs ..).trans avail)

theorem exec_of_decrypt_fatal (h : s.decrypts i d ty a b payload) {t : State} {e : FatalError}
    (raised : decrypt d ty a b payload s = (.fatal e, t)) :
    ∃ u, exec i s = .next u ∧ DisabledBy t u d e.kind.code e.detail := by
  obtain ⟨rule, runs, -, fatal⟩ := exists_rule_of_decrypts h
  obtain ⟨⟨running, buffered⟩, -⟩ := h
  rw [runs]
  exact runRecord_fatal_disabledBy running buffered (fatal e t raised)

end Protected

/-! #### The MAC and the sequence counter (R239, R240, R244, R245) -/

theorem eq_allOnes_iff_toNat {x : BitVec 64} : x = BitVec.allOnes 64 ↔ x.toNat = 2 ^ 64 - 1 := by
  rw [← BitVec.toNat_inj, BitVec.toNat_allOnes]

/-- The four answers of steps 3 to 5 of R230. -/
theorem acceptBody_eq (cls : VersionClass) (p : CipherSuiteParams) (d : Dir) (ty a b : Byte) (body : Bytes) (s : State) :
    acceptBody cls p d ty a b body s =
      if body.length < p.macLen then (.fatal .recordTooShort, s)
      else if recordMac cls s.params.macMode p (s.peer d).keys.macKey (s.peer d).keys.seq ty a b
          (body.take (body.length - p.macLen)) ≠ body.drop (body.length - p.macLen) then (.fatal .macMismatch, s)
      else if (s.peer d).keys.seq.toNat = 2 ^ 64 - 1 then (.fatal .seqExhausted, s)
      else (.done, s.accepted d ty (body.take (body.length - p.macLen))) := by
  unfold acceptBody checkMac fragmentOf
  by_cases short : body.length < p.macLen
  case pos => rw [if_pos short, if_pos short]
  case neg =>
    simp only [if_neg short, ne_eq, ite_not, eq_allOnes_iff_toNat]
    by_cases same : recordMac cls s.params.macMode p (s.peer d).keys.macKey (s.peer d).keys.seq ty a b
        (body.take (body.length - p.macLen)) = body.drop (body.length - p.macLen)
    case pos => simp only [if_pos same, State.accepted]
    case neg => simp only [if_neg same]

/-- A record whose body is decrypted ends as its MAC and the counter say (R230 steps 3 to 5). -/
theorem exec_of_acceptBody {s u : State} {i : Instr} {d : Dir} {ty a b : Byte} {payload body : Bytes}
    (h : s.decrypts i d ty a b payload)
    (decrypted : decrypt d ty a b payload s = acceptBody (versionClass u.conn.version) u.suite d ty a b body u) :
    ∃ t, exec i s = .next t ∧ MacOutcome u t d ty a b body (5 + payload.length) := by
  rw [acceptBody_eq] at decrypted
  unfold MacOutcome
  split_ifs at decrypted ⊢
  · exact exec_of_decrypt_fatal h decrypted
  · exact exec_of_decrypt_fatal h decrypted
  · exact exec_of_decrypt_fatal h decrypted
  · exact ⟨_, exec_of_decrypt_done h decrypted, (delivered_eq_enterFinished ..).symm⟩

/-! #### The stream suites (R233) -/

theorem decrypt_stream {s : State} {d : Dir} {st : StreamState} (stream : s.suite.family = .stream)
    (state : (s.peer d).keys.streamState = some st) (ty a b : Byte) (payload : Bytes) :
    decrypt d ty a b payload s =
      acceptBody (versionClass s.conn.version) s.suite d ty a b (streamApply st payload).2
        (s.setKeys d { (s.peer d).keys with streamState := some (streamApply st payload).1 }) := by
  simp only [decrypt, decryptBody, stream, state, Option.getD_some]

/-- Settles O41: the stream cipher gives the body and its next state; the MAC decides. -/
theorem streamRecordIsDecrypted : Obligations.StreamRecordIsDecrypted := by
  intro s i d ty a b payload st decrypts stream state
  refine exec_of_acceptBody decrypts ?_
  rw [decrypt_stream stream state, conn_setKeys, suite_setKeys]

/-! #### The block suites (R235 to R237) -/

theorem versionClass_eq_tls11_iff (v : BitVec 16) : versionClass v = .tls11 ↔ v = 0x0302 := by
  constructor
  case mp =>
    unfold versionClass
    split_ifs with ssl3 tls10 tls11
    · exact nofun
    · exact nofun
    · exact fun _ => tls11
    all_goals exact nofun
  case mpr =>
    intro tls11
    rw [tls11]
    rfl

theorem chainsIv_versionClass_iff (v : BitVec 16) : (versionClass v).chainsIv = true ↔ v = 0x0300 ∨ v = 0x0301 := by
  constructor
  case mp =>
    unfold versionClass
    split_ifs with ssl3 tls10 tls11
    · exact fun _ => .inl ssl3
    · exact fun _ => .inr tls10
    all_goals exact nofun
  case mpr => rintro (rfl | rfl) <;> rfl

theorem checkLen_eq_true_iff (len min bl : Nat) : checkLen len min bl = true ↔ ¬ (len < min ∨ len % bl ≠ 0) := by
  simp [checkLen]

/-- The IV and the ciphertext of a payload of an accepted length: TLS 1.1 sends its IV, the others chain it (R235, R236). -/
theorem splitIv_eq (v : BitVec 16) (p : CipherSuiteParams) (k : KeyBank) (payload : Bytes) :
    splitIv (versionClass v) p k payload =
      if payload.length < (if v = 0x0302 then 2 * p.blockLen else p.blockLen) ∨ payload.length % p.blockLen ≠ 0 then none
      else
        some (if v = 0x0302 then payload.take p.blockLen else k.iv,
          if v = 0x0302 then payload.drop p.blockLen else payload) := by
  simp only [splitIv, versionClass_eq_tls11_iff, checkLen_eq_true_iff, ite_not]
  by_cases tls11 : v = 0x0302
  · simp only [if_pos tls11]
  · simp only [if_neg tls11]

/-- The bank after bulk decryption with a block cipher: SSLv3 and TLS 1.0 keep the last ciphertext block as the next IV (R230). -/
def chainedBank (v : BitVec 16) (bl : Nat) (k : KeyBank) (ct : Bytes) : KeyBank :=
  if v = 0x0300 ∨ v = 0x0301 then { k with iv := ct.drop (ct.length - bl) } else k

theorem decryptBody_block {v : BitVec 16} {p : CipherSuiteParams} {k : KeyBank} {payload iv ct : Bytes}
    (block : p.family = .block) (splits : splitIv (versionClass v) p k payload = some (iv, ct)) (mode : PaddingCheck) :
    decryptBody (versionClass v) mode p k payload =
      (chainedBank v p.blockLen k ct, unpad (versionClass v) mode p (cbcDec p.cipher k.encKey p.blockLen iv ct)) := by
  simp only [decryptBody, block, splits, chainsIv_versionClass_iff, chainedBank]

theorem decrypt_block_badLength {s : State} {d : Dir} {payload : Bytes} (block : s.suite.family = .block)
    (refused : splitIv (versionClass s.conn.version) s.suite (s.peer d).keys payload = none) (ty a b : Byte) :
    decrypt d ty a b payload s = (.fatal .badCiphertextLength, s) := by
  simp only [decrypt, decryptBody, block, refused, setKeys_keys]

section Split

variable {s : State} {d : Dir} {payload iv ct : Bytes} (block : s.suite.family = .block)
  (splits : splitIv (versionClass s.conn.version) s.suite (s.peer d).keys payload = some (iv, ct))
include block splits

/-- Bad padding raises after the IV is chained (R57, R230). -/
theorem decrypt_block_badPadding {e : FatalError}
    (refused : unpad (versionClass s.conn.version) s.params.paddingCheck s.suite
      (cbcDec s.suite.cipher (s.peer d).keys.encKey s.suite.blockLen iv ct) = .error e) (ty a b : Byte) :
    decrypt d ty a b payload s =
      (.fatal e, s.setKeys d (chainedBank s.conn.version s.suite.blockLen (s.peer d).keys ct)) := by
  simp only [decrypt, decryptBody_block block splits, refused]

theorem decrypt_block_body {body : Bytes}
    (unpadded : unpad (versionClass s.conn.version) s.params.paddingCheck s.suite
      (cbcDec s.suite.cipher (s.peer d).keys.encKey s.suite.blockLen iv ct) = .ok body) (ty a b : Byte) :
    decrypt d ty a b payload s =
      acceptBody (versionClass s.conn.version) s.suite d ty a b body
        (s.setKeys d (chainedBank s.conn.version s.suite.blockLen (s.peer d).keys ct)) := by
  simp only [decrypt, decryptBody_block block splits, unpadded]

end Split

/-- Settles O42: a bad length is refused before any write; else the padding of the decrypted blocks, and then the MAC, decide. -/
theorem blockRecordIsDecrypted : Obligations.BlockRecordIsDecrypted := by
  intro s i d ty a b payload decrypts block
  dsimp only
  have splits := splitIv_eq s.conn.version s.suite (s.peer d).keys payload
  by_cases bad : payload.length < (if s.conn.version = 0x0302 then 2 * s.suite.blockLen else s.suite.blockLen) ∨
      payload.length % s.suite.blockLen ≠ 0
  case pos =>
    rw [if_pos bad] at splits
    simp only [if_pos bad]
    exact exec_of_decrypt_fatal decrypts (decrypt_block_badLength block splits ty a b)
  case neg =>
    rw [if_neg bad] at splits
    simp only [if_neg bad]
    split
    case h_1 e refused => exact exec_of_decrypt_fatal decrypts (decrypt_block_badPadding block splits refused ty a b)
    case h_2 body unpadded =>
      refine exec_of_acceptBody decrypts ?_
      rw [conn_setKeys, suite_setKeys]
      exact decrypt_block_body block splits unpadded ty a b

end Sys2Proof.Machine

/-! ### Disable and the codes of the errors (R260, R262 to R264) -/
namespace Sys2Proof.Machine

/-- Settles O27: what `disable_disabledBy` and `avail_disable` say of every disable; the codes are the closed table of R263. -/
theorem disableSavesTheErrorAndSurfacesEverything : Obligations.DisableSavesTheErrorAndSurfacesEverything := by
  refine ⟨fun s d e => ⟨?effect, ?drained⟩, ?codes⟩
  case effect => exact disable_disabledBy s d e
  case drained => exact avail_disable s d e
  case codes => decide

end Sys2Proof.Machine
